-- ==== Sys2Proof/Word.lean ====
section
/-! DEFINITION. The words of SAL CORE: the stream byte (30_encoding.md R90), and a value of the open
number system NUM (00_scope.md R5). -/

namespace Sys2Proof

/-- One stream word, and one byte of the slot memory: 8 bits (R90, R7). -/
abbrev Byte := BitVec 8

/-- One value of the number system NUM of R5, named by a number that stands for it.

NUM is OPEN in the spec (92_eei_decisions.md D13), so the code is a NAME of the value and no numeral: nothing
relates a code to the number it stands for but the operations of `Config.num`, which have no body.
A finite format has finitely many values, and every run over the real numbers, started from countably many frequencies,
meets countably many: either way the values that occur can be named by numbers. [DESIGN CHOICE: log entry 1] -/
structure NumVal where
  code : Nat
deriving DecidableEq, Repr, Inhabited

end Sys2Proof
end

