-- ==== Sys2Proof/Config.lean ====
section
/-! DEFINITION. The implementation parameters of 00_scope.md R5. The four that the spec leaves OPEN (N, FS, NUM,
READY_GATING) are constants without a body, so that whatever is proved of the machine holds for every value of them. -/

namespace Sys2Proof

/-- What the rules need of a number system (R5: "with `+ - * /`, `abs`, `<`, `sin`, `exp`, `pow2`, `fmod1`"), over the carrier `α`.
No law is assumed of it: R213 lets a rounding format supply every operation, and says of the functions
that a model "assumes nothing of but that they depend on their arguments alone".
`Sys2Proof.NumSystem.real` (Machine/RealNum.lean) is the system the rules are written over. -/
structure NumSystem (α : Type) where
  /-- The integer, "converted to `NUM` exactly" (R174); also the literals 0, 1, 2, 12 and 16383. -/
  ofNat : Nat → α
  /-- The literal 0.5 of R206. -/
  half : α
  /-- The circle constant π of R9. -/
  pi : α
  /-- 2π: a constant of its own, since a format rounds it by itself (R213: "the format's nearest value to twice π"). -/
  twoPi : α
  add : α → α → α
  sub : α → α → α
  mul : α → α → α
  div : α → α → α
  neg : α → α
  abs : α → α
  sin : α → α
  exp : α → α
  /-- `2^x` (R9). -/
  pow2 : α → α
  /-- `x mod 1`, used only on `x >= 0` (R9). -/
  mod1 : α → α
  /-- `x < y` (R9). -/
  lt : α → α → Bool
deriving Inhabited

namespace Config

/-- By how much the capacity `N` exceeds its least value 2. OPEN (R5, D4): no body. [log entry 2] -/
opaque extraSlots : Nat

/-- `N`, the number of slots of the Event Buffer: any integer with `N >= 2` (R5, D4). -/
def slotCount : Nat := extraSlots + 2

/-- `READY_GATING` (R5, D17): false is 0, the reference behaviour; true is 1, the ready-cursor option.
The spec lets a model "fix either value or quantify over both"; having no body, this one stands for both. [log entry 3] -/
opaque readyGating : Bool

/-- `NUM`, the number system of the oscillator and of the bend factor. OPEN (R5, D13): no body. [log entry 1] -/
opaque num : NumSystem NumVal

/-- `FS`, the sample rate. OPEN (R5, D14): no body. That `FS > 0` is nowhere assumed. [log entry 4] -/
opaque sampleRate : NumVal

end Config

end Sys2Proof
end

