-- ==== Sys2Proof/Syntax.lean ====
section
/-! DEFINITION. The instructions of SAL CORE, one constructor per row of spec/opcode_table.json, and the words they arrive in. -/

namespace Sys2Proof

/-- The waveform selector {Sine, Sawtooth, Square, Triangle} (10_state.md R32); its 2-bit codes are `Mode.code` (R103). -/
inductive Mode where
  | sine | sawtooth | square | triangle
deriving DecidableEq, Repr, Inhabited

/-- The instructions. The first 24 are the classes of stream byte (`space: stream` of the table, 30_encoding.md R91 to R96),
the last 16 the command codes (`space: command`, R102). Every operand is held at exactly the width its encoding gives it,
so that no term of this type is ill-formed. -/
inductive Instr where
  /-- `NOTE_OFF` with its uninterpreted low nibble (40_decoder.md R124, 30_encoding.md R92). -/
  | noteOff (lo : BitVec 4)
  /-- `NOTE_ON` with its uninterpreted low nibble (40_decoder.md R125, 30_encoding.md R92). -/
  | noteOn (lo : BitVec 4)
  /-- `POLY_AT` with its uninterpreted low nibble (40_decoder.md R126, 30_encoding.md R92). -/
  | polyAt (lo : BitVec 4)
  /-- `CTRL_CHG` with its uninterpreted low nibble (40_decoder.md R127, 30_encoding.md R92). -/
  | ctrlChg (lo : BitVec 4)
  /-- `PROG_CHG` with its uninterpreted low nibble (40_decoder.md R128, 30_encoding.md R92). -/
  | progChg (lo : BitVec 4)
  /-- `CHAN_AT` with its uninterpreted low nibble (40_decoder.md R129, 30_encoding.md R92). -/
  | chanAt (lo : BitVec 4)
  /-- `PITCH_BEND` with its uninterpreted low nibble (40_decoder.md R130, 30_encoding.md R92). -/
  | pitchBend (lo : BitVec 4)
  /-- `SYS_F0`, the byte `0xF0` (40_decoder.md R131). -/
  | sysF0
  /-- `TIME_CODE`, the byte `0xF1` (40_decoder.md R132). -/
  | timeCode
  /-- `SONG_POS`, the byte `0xF2` (40_decoder.md R133). -/
  | songPos
  /-- `SONG_SEL`, the byte `0xF3` (40_decoder.md R134). -/
  | songSel
  /-- `SYS_F4`, the byte `0xF4` (40_decoder.md R135). -/
  | sysF4
  /-- `SYS_F5`, the byte `0xF5` (40_decoder.md R136). -/
  | sysF5
  /-- `TUNE_REQ`, the byte `0xF6` (40_decoder.md R137). -/
  | tuneReq
  /-- `EOX`, the byte `0xF7` (40_decoder.md R138). -/
  | eox
  /-- `CLOCK`, the byte `0xF8` (40_decoder.md R139). -/
  | clock
  /-- `SYS_F9`, the byte `0xF9` (40_decoder.md R140). -/
  | sysF9
  /-- `START`, the byte `0xFA` (40_decoder.md R141). -/
  | start
  /-- `CONTINUE`, the byte `0xFB` (40_decoder.md R142). -/
  | continueMsg
  /-- `STOP`, the byte `0xFC` (40_decoder.md R143). -/
  | stop
  /-- `SYS_FD`, the byte `0xFD` (40_decoder.md R144). -/
  | sysFD
  /-- `ACT_SENSE`, the byte `0xFE` (40_decoder.md R145). -/
  | actSense
  /-- `SYS_RESET`, the byte `0xFF` (40_decoder.md R146). -/
  | sysReset
  /-- `DATA`, a byte with bit 7 clear (40_decoder.md R147). -/
  | data (value : BitVec 7)
  /-- `NOP`, command code `0x0` (41_dispatcher.md R184). -/
  | nop
  /-- `PROCESS_BYTE`, command code `0x1` (40_decoder.md R120). -/
  | processByte (b : Byte)
  /-- `DISPATCH`, command code `0x2` (41_dispatcher.md R170). -/
  | dispatch
  /-- `SET_SEMITONES`, command code `0x3` (41_dispatcher.md R178). -/
  | setSemitones (n : BitVec 32)
  /-- `GET_SEMITONES`, command code `0x4` (41_dispatcher.md R179). -/
  | getSemitones
  /-- `RESERVED_5`, command code `0x5` (41_dispatcher.md R184). -/
  | reserved5
  /-- `RESERVED_6`, command code `0x6` (41_dispatcher.md R184). -/
  | reserved6
  /-- `RESERVED_7`, command code `0x7` (41_dispatcher.md R184). -/
  | reserved7
  /-- `NEXT_SAMPLE`, command code `0x8` (42_oscillator.md R200). -/
  | nextSample
  /-- `SET_FREQUENCY`, command code `0x9` (42_oscillator.md R210). -/
  | setFrequency (hz : NumVal)
  /-- `SET_MODE`, command code `0xA` (42_oscillator.md R211). -/
  | setMode (m : Mode)
  /-- `GET_MODE`, command code `0xB` (42_oscillator.md R212). -/
  | getMode
  /-- `RESERVED_C`, command code `0xC` (41_dispatcher.md R184). -/
  | reservedC
  /-- `RESERVED_D`, command code `0xD` (41_dispatcher.md R184). -/
  | reservedD
  /-- `RESERVED_E`, command code `0xE` (41_dispatcher.md R184). -/
  | reservedE
  /-- `RESET`, command code `0xF` (70_reset_and_hazards.md R270). -/
  | reset
deriving DecidableEq, Repr

/-- A word presented to the block by the environment. The spec has two encoding spaces and says of no word that it
belongs to both, so a word says which space it is in. [DESIGN CHOICE: log entry 5] -/
inductive Packet where
  /-- One byte of the MIDI stream (R90), as the byte-arrival port receives it (92_eei_decisions.md D3). -/
  | stream (b : Byte)
  /-- One command: the 4-bit code `op[3:0]` and the bits of its argument read as one number (R102).
  The argument of `SET_FREQUENCY` is the code of a NUM value. -/
  | command (op : BitVec 4) (arg : Nat)
deriving DecidableEq, Repr

end Sys2Proof
end

