-- ==== Sys2Proof/WellFormed.lean ====
section
/-! DEFINITION. Which words are words of the interface: an argument has no bit outside the width that 30_encoding.md R102
gives it. (A term of `Instr` needs no check: its operands have their encoding's widths by their types.) -/

namespace Sys2Proof

/-- The width in bits of a command's argument: `b[7:0]`, `n[31:0]`, `m[1:0]`, 0 for a command without one; `none` for
`SET_FREQUENCY`, whose argument is a NUM value, and the width of NUM is open (R102, R5). -/
def argumentWidth (op : BitVec 4) : Option Nat :=
  match op.toNat with
  | 0x1 => some 8
  | 0x3 => some 32
  | 0x9 => none
  | 0xA => some 2
  | _ => some 0

/-- The word is one of the interface. Every stream byte is (R105); a command is when its argument fits. -/
def Packet.wellFormed : Packet → Bool
  | .stream _ => true
  | .command op arg =>
    match argumentWidth op with
    | none => true
    | some w => decide (arg < 2 ^ w)

end Sys2Proof
end

