-- ==== Sys2Proof/Decode.lean ====
section
/-! DEFINITION. Decoding and encoding, both written from 30_encoding.md R91 to R96 and R102, R103. Decoding is total: every stream byte is an
instruction (R105), every command code is one (R106), and a command word whose argument does not fit is rejected by name. -/

namespace Sys2Proof

/-- Why a word is no instruction. -/
inductive DecodeError where
  /-- A command word has argument bits outside the width R102 gives that command's argument. Raised by `decode` alone. -/
  | operandTooWide (op : BitVec 4)
deriving DecidableEq, Repr

/-- The mode a 2-bit code selects: 0 Sine, 1 Sawtooth, 2 Square, 3 Triangle, "none is reserved" (R103, R32). -/
def Mode.ofCode (m : BitVec 2) : Mode :=
  match m.toNat with
  | 0 => .sine
  | 1 => .sawtooth
  | 2 => .square
  | _ => .triangle

/-- The 2-bit code of a mode (R103). -/
def Mode.code : Mode → BitVec 2
  | .sine => 0
  | .sawtooth => 1
  | .square => 2
  | .triangle => 3

/-- `hi = b[7:4]` (R92). -/
def highNibble (b : Byte) : BitVec 4 := b.extractLsb' 4 4

/-- `lo = b[3:0]` (R92). -/
def lowNibble (b : Byte) : BitVec 4 := b.extractLsb' 0 4

/-- The instruction a stream byte is: bit 7 clear is `DATA` (R91); the high nibble selects the channel-voice class (R93);
under `hi = 0xF` the whole byte selects the system message (R94). -/
def decodeByte (b : Byte) : Instr :=
  match (highNibble b).toNat with
  | 0x8 => .noteOff (lowNibble b)
  | 0x9 => .noteOn (lowNibble b)
  | 0xA => .polyAt (lowNibble b)
  | 0xB => .ctrlChg (lowNibble b)
  | 0xC => .progChg (lowNibble b)
  | 0xD => .chanAt (lowNibble b)
  | 0xE => .pitchBend (lowNibble b)
  | 0xF =>
    match (lowNibble b).toNat with
    | 0x0 => .sysF0
    | 0x1 => .timeCode
    | 0x2 => .songPos
    | 0x3 => .songSel
    | 0x4 => .sysF4
    | 0x5 => .sysF5
    | 0x6 => .tuneReq
    | 0x7 => .eox
    | 0x8 => .clock
    | 0x9 => .sysF9
    | 0xA => .start
    | 0xB => .continueMsg
    | 0xC => .stop
    | 0xD => .sysFD
    | 0xE => .actSense
    | _ => .sysReset
  | _ => .data (b.extractLsb' 0 7)

/-- The instruction a command code and its argument are (R102). -/
def decodeCommand (op : BitVec 4) (arg : Nat) : Instr :=
  match op.toNat with
  | 0x0 => .nop
  | 0x1 => .processByte (BitVec.ofNat 8 arg)
  | 0x2 => .dispatch
  | 0x3 => .setSemitones (BitVec.ofNat 32 arg)
  | 0x4 => .getSemitones
  | 0x5 => .reserved5
  | 0x6 => .reserved6
  | 0x7 => .reserved7
  | 0x8 => .nextSample
  | 0x9 => .setFrequency ⟨arg⟩
  | 0xA => .setMode (Mode.ofCode (BitVec.ofNat 2 arg))
  | 0xB => .getMode
  | 0xC => .reservedC
  | 0xD => .reservedD
  | 0xE => .reservedE
  | _ => .reset

/-- The instruction a word is, or why it is none. -/
def decode (p : Packet) : Except DecodeError Instr :=
  match p with
  | .stream b => .ok (decodeByte b)
  | .command op arg => if (Packet.command op arg).wellFormed then .ok (decodeCommand op arg) else .error (.operandTooWide op)

/-- A channel-voice status byte from its two nibbles (R92). -/
def statusByte (hi lo : BitVec 4) : Byte := hi ++ lo

/-- A data byte from its value: bit 7 clear (R91). -/
def dataByte (value : BitVec 7) : Byte := 0#1 ++ value

/-- The word of an instruction, written from R93, R94, R91 and R102. -/
def encode : Instr → Packet
  | .noteOff lo => .stream (statusByte 0x8 lo)
  | .noteOn lo => .stream (statusByte 0x9 lo)
  | .polyAt lo => .stream (statusByte 0xA lo)
  | .ctrlChg lo => .stream (statusByte 0xB lo)
  | .progChg lo => .stream (statusByte 0xC lo)
  | .chanAt lo => .stream (statusByte 0xD lo)
  | .pitchBend lo => .stream (statusByte 0xE lo)
  | .sysF0 => .stream 0xF0
  | .timeCode => .stream 0xF1
  | .songPos => .stream 0xF2
  | .songSel => .stream 0xF3
  | .sysF4 => .stream 0xF4
  | .sysF5 => .stream 0xF5
  | .tuneReq => .stream 0xF6
  | .eox => .stream 0xF7
  | .clock => .stream 0xF8
  | .sysF9 => .stream 0xF9
  | .start => .stream 0xFA
  | .continueMsg => .stream 0xFB
  | .stop => .stream 0xFC
  | .sysFD => .stream 0xFD
  | .actSense => .stream 0xFE
  | .sysReset => .stream 0xFF
  | .data value => .stream (dataByte value)
  | .nop => .command 0x0 0
  | .processByte b => .command 0x1 b.toNat
  | .dispatch => .command 0x2 0
  | .setSemitones n => .command 0x3 n.toNat
  | .getSemitones => .command 0x4 0
  | .reserved5 => .command 0x5 0
  | .reserved6 => .command 0x6 0
  | .reserved7 => .command 0x7 0
  | .nextSample => .command 0x8 0
  | .setFrequency hz => .command 0x9 hz.code
  | .setMode m => .command 0xA m.code.toNat
  | .getMode => .command 0xB 0
  | .reservedC => .command 0xC 0
  | .reservedD => .command 0xD 0
  | .reservedE => .command 0xE 0
  | .reset => .command 0xF 0

/-- The word that `w` is when it is numbered as spec/opcode_table.json numbers a row of `nbits` bits. A row of the command space has 4
bits, a row of the stream space 8, and both come here as one whole byte: below 16 the word is the command of that code with
all argument bits 0, else it is the stream byte. So the 16 data bytes below 16 are not reached by this numbering,
only by `Packet.stream` and by `PROCESS_BYTE`. [DESIGN CHOICE: log entry 6] -/
def packetOfTableWord (nbits w : Nat) : Option Packet :=
  if w < 16 ∧ nbits ≤ 8 then some (.command (BitVec.ofNat 4 w) 0)
  else if w < 256 ∧ nbits = 8 then some (.stream (BitVec.ofNat 8 w))
  else none

/-- The instruction the decoder reads from a word numbered as the opcode table numbers it. -/
def decodeTableWord (nbits w : Nat) : Option Instr :=
  match packetOfTableWord nbits w with
  | none => none
  | some p => (decode p).toOption

end Sys2Proof
end

