-- ==== Sys2Proof/Machine/State.lean ====
section
/-! DEFINITION. The state of SAL CORE, all of 10_state.md R20: the registers and the slot memory of MFE, the registers of OSC; beside them
the model's own two lists, the words still to be taken and the results already given. The two sub-blocks are types over
the capacity `n` and over the carrier `α` of a number system, so that every operation is written once for every
parameter of 00_scope.md R5; the machine is the instance at `Config.slotCount` and `NumVal`. -/

namespace Sys2Proof.Machine

/-- The slot memory (20_memory.md R60) as the bytes that differ from what an unlisted address reads as. -/
structure Memory where
  cells : List Host.Cell
deriving DecidableEq, Repr

/-- What an address that no cell lists reads as: "Reset value: every byte `0x00`" (10_state.md R31). -/
def Memory.unlisted : Byte := 0x00

/-- The one canonical form: addresses strictly rising, and no cell equal to what an unlisted address reads as. -/
abbrev Memory.wf (m : Memory) : Prop :=
  m.cells.Pairwise (fun c d => c.1 < d.1) ∧ ∀ c ∈ m.cells, c.2 ≠ Memory.unlisted

/-- Every listed address is one of the address space `0 .. limit − 1` (R60). -/
abbrev Memory.within (m : Memory) (limit : Nat) : Prop := ∀ c ∈ m.cells, c.1 < limit

/-- The bytes of one slot, a "MidiEvent": positions 0, 1 and 2 (10_state.md R31, 30_encoding.md R99). -/
structure Slot where
  b0 : Byte
  b1 : Byte
  b2 : Byte
deriving DecidableEq, Repr

/-- MFE's registers and memory (10_state.md R24 to R31) for a buffer of `n` slots.
The registers with fewer legal values than their width allows are held at their legal values: `expectedLen` and `dataIdx` are
0, 1 or 2 between commands (R25, R26), and a cursor is below `n` (R27 to R29). -/
structure Mfe (n : Nat) where
  /-- R24, 8 bits. -/
  runningStatus : Byte
  /-- R25, "legal values 0, 1, 2". -/
  expectedLen : Fin 3
  /-- R26: "Between commands its value is 0, 1 or 2"; the 3 of the moment inside a step is a value of `Mfe.dataStep`, not of the register. -/
  dataIdx : Fin 3
  /-- R27, the write cursor. -/
  wr : Fin n
  /-- R28, the read cursor. -/
  rd : Fin n
  /-- R29, the ready cursor; without `READY_GATING` no command reads or writes it. -/
  rdy : Fin n
  /-- R30, 32 bits. -/
  semitoneRange : BitVec 32
  /-- R31, `slot[0..n-1][0..2]`. -/
  slots : Memory
deriving DecidableEq, Repr

/-- OSC's registers (10_state.md R32 to R38) over the carrier of a number system. -/
structure Osc (α : Type) where
  /-- R32. -/
  mode : Mode
  /-- R33, radians. -/
  phase : α
  /-- R34, radians per sample, signed. -/
  phaseInc : α
  /-- R35, `A0`. -/
  a0 : α
  /-- R36, `B1`. -/
  b1 : α
  /-- R37. -/
  stageA : α
  /-- R38. -/
  stageB : α
deriving DecidableEq, Repr

/-- The state of a key event (30_encoding.md R104). -/
inductive KeyState where
  | pressed | released
deriving DecidableEq, Repr

/-- The event records of 30_encoding.md R104. -/
inductive Event (α : Type) where
  /-- `RAW(b0, b1, b2)`: the three bytes of the slot. -/
  | raw (b0 b1 b2 : Byte)
  /-- `KEY(state, note, velocity)`: 7 bits each. -/
  | key (state : KeyState) (note velocity : BitVec 7)
  /-- `PITCH(factor)`. -/
  | pitch (factor : α)
deriving DecidableEq, Repr

/-- The result of one command, for the commands that have one (30_encoding.md R102). -/
inductive Output (α : Type) where
  /-- The list `DISPATCH` returns (R104). -/
  | events (es : List (Event α))
  /-- The sample `NEXT_SAMPLE` returns (42_oscillator.md R200). -/
  | sample (x : α)
  /-- What `GET_SEMITONES` returns (41_dispatcher.md R179). -/
  | semitones (n : BitVec 32)
  /-- What `GET_MODE` returns: `mode[1:0]` (42_oscillator.md R212). -/
  | mode (m : BitVec 2)
deriving DecidableEq, Repr

/-- The machine's state. -/
structure State where
  mfe : Mfe Config.slotCount
  osc : Osc NumVal
  /-- The model's own: the words the environment has presented and the block has not yet taken, first word first. [log entry 7] -/
  inbox : List Packet
  /-- The model's own: the results given so far, oldest first (70_reset_and_hazards.md R288). [log entry 8] -/
  outputs : List (Output NumVal)
deriving DecidableEq, Repr

/-- The machine has no fault: "No command and no stream byte raises an exception, fault, trap or error code" (60_exceptions.md R240).
No constructor: a fault cannot be built, which is safe, since the spec names none. -/
inductive Fault where
deriving DecidableEq, Repr

/-- Why a step is refused. -/
inductive Refusal where
  /-- An instruction without a meaning in this model. No arm of `exec` raises it: every instruction has its meaning. (Safe: the run stops.) -/
  | notModelled (mnemonic : String)
  /-- Raised by `step` alone, for a word that is no word of the interface (`DecodeError`). Safe: the spec gives such a word no meaning
  and the environment cannot present one. [log entry 9] -/
  | undecodable (why : DecodeError)
deriving DecidableEq, Repr

/-- MFE after `RESET` (10_state.md R42). -/
def Mfe.reset (n : Nat) (h : 0 < n) : Mfe n :=
  { runningStatus := 0x00, expectedLen := 0, dataIdx := 0, wr := ⟨0, h⟩, rd := ⟨0, h⟩, rdy := ⟨0, h⟩,
    semitoneRange := 1, slots := ⟨[]⟩ }

/-- OSC after `RESET` (10_state.md R42). -/
def Osc.reset {α : Type} (M : NumSystem α) : Osc α :=
  { mode := .sine, phase := M.ofNat 0, phaseInc := M.ofNat 0, a0 := M.ofNat 0, b1 := M.ofNat 1,
    stageA := M.ofNat 0, stageB := M.ofNat 0 }

/-- `N > 0`, from `N >= 2` (R5). -/
theorem slotCount_pos : 0 < Config.slotCount := Nat.succ_pos _

/-- The machine right after reset (10_state.md R42, 70_reset_and_hazards.md R270 and R271): no word waits and no result has been given. -/
def State.reset : State :=
  { mfe := Mfe.reset Config.slotCount slotCount_pos, osc := Osc.reset Config.num, inbox := [], outputs := [] }

end Sys2Proof.Machine
end

