-- ==== Sys2Proof/Machine/Ops.lean ====
section
/-! DEFINITION. The named operations over the slot memory, the cursors and the state. (There is no operation that takes an exception and none
that returns from one: 60_exceptions.md R240, R247 and R248 say the hardware has neither.) -/

namespace Sys2Proof.Machine

/-! ### The slot memory -/

/-- The byte a list of cells gives an address. -/
def cellsRead : List Host.Cell → Nat → Byte
  | [], _ => Memory.unlisted
  | c :: cs, a => if c.1 = a then c.2 else cellsRead cs a

/-- A cell put where its address belongs. -/
def cellsInsert (c : Host.Cell) : List Host.Cell → List Host.Cell
  | [] => [c]
  | d :: ds => if c.1 < d.1 then c :: d :: ds else d :: cellsInsert c ds

/-- The byte at an address. -/
def Memory.read (m : Memory) (a : Nat) : Byte := cellsRead m.cells a

/-- The cells that list other addresses than `a`. -/
def cellsErase (cs : List Host.Cell) (a : Nat) : List Host.Cell := cs.filter (fun c => decide (c.1 ≠ a))

/-- `MemWrite(a, 1, v)` of 20_memory.md R61. Writing what an unlisted address reads as leaves the address unlisted. -/
def Memory.write (m : Memory) (a : Nat) (v : Byte) : Memory :=
  ⟨if v = Memory.unlisted then cellsErase m.cells a else cellsInsert (a, v) (cellsErase m.cells a)⟩

/-- `MemRead(a, k)` of 00_scope.md R8: "the `n` bytes at byte addresses `addr` to `addr+n-1` ... lowest address first". -/
def Memory.readBytes (m : Memory) (a : Nat) : Nat → List Byte
  | 0 => []
  | k + 1 => m.read a :: m.readBytes (a + 1) k

/-- "Byte `p` of slot `i` is at address `3*i + p`" (20_memory.md R60). -/
def slotAddr {n : Nat} (i : Fin n) (p : Fin 3) : Nat := 3 * i.val + p.val

/-- `slot[i]`, read whole (20_memory.md R61: `MemRead(3*i, 3)`). -/
def Mfe.slot {n : Nat} (m : Mfe n) (i : Fin n) : Slot :=
  ⟨m.slots.read (slotAddr i 0), m.slots.read (slotAddr i 1), m.slots.read (slotAddr i 2)⟩

/-- `slot[i][p] <- v`. -/
def Mfe.writeSlot {n : Nat} (m : Mfe n) (i : Fin n) (p : Fin 3) (v : Byte) : Mfe n :=
  { m with slots := m.slots.write (slotAddr i p) v }

/-! ### The cursors: arithmetic modulo `n` (40_decoder.md R154) -/

/-- `(c + 1) mod n`. -/
def cursorNext {n : Nat} (c : Fin n) : Fin n :=
  ⟨(c.val + 1) % n, Nat.mod_lt _ (Nat.lt_of_le_of_lt (Nat.zero_le _) c.isLt)⟩

/-- `(c − 1) mod n`, "never allowed to go negative". -/
def cursorPrev {n : Nat} (c : Fin n) : Fin n :=
  ⟨(c.val + (n - 1)) % n, Nat.mod_lt _ (Nat.lt_of_le_of_lt (Nat.zero_le _) c.isLt)⟩

/-- `(limit − rd) mod n`. -/
def cursorDistance {n : Nat} (limit rd : Fin n) : Nat := (limit.val + (n - rd.val)) % n

/-- `(c + k) mod n`. -/
def cursorAdd {n : Nat} (c : Fin n) (k : Nat) : Fin n :=
  ⟨(c.val + k) % n, Nat.mod_lt _ (Nat.lt_of_le_of_lt (Nat.zero_le _) c.isLt)⟩

/-! ### The state -/

/-- A command of MFE: the oscillator is not touched (00_scope.md R2). -/
def State.withMfe (s : State) (m : Mfe Config.slotCount) : State := { s with mfe := m }

/-- A command of OSC: MFE is not touched (00_scope.md R2). -/
def State.withOsc (s : State) (o : Osc NumVal) : State := { s with osc := o }

/-- The command returns a result. -/
def State.emit (s : State) (r : Output NumVal) : State := { s with outputs := s.outputs ++ [r] }

/-- The environment's next word is taken. -/
def State.withInbox (s : State) (ws : List Packet) : State := { s with inbox := ws }

end Sys2Proof.Machine
end

