-- ==== Sys2Proof/Machine/Operands.lean ====
section
/-! DEFINITION. What the operations read from a status byte and from a slot (30_encoding.md R96, R100, R101) and the codes of the
result records (R104). -/

namespace Sys2Proof.Machine

/-- `LEN(b)`, the number of data bytes of a status byte, 0 for a byte that is none (30_encoding.md R96). -/
def len (b : Byte) : Fin 3 :=
  match (highNibble b).toNat with
  | 0x8 | 0x9 | 0xA | 0xE => 2
  | 0xB | 0xC | 0xD => 1
  | 0xF =>
    match (lowNibble b).toNat with
    | 0x1 | 0x3 => 1
    | 0x2 => 2
    | _ => 0
  | _ => 0

/-- `v[6:0]`, the seven significant bits of a data byte (30_encoding.md R97). -/
def sevenBits (v : Byte) : BitVec 7 := v.extractLsb' 0 7

/-- The note number of a key event, `m[1]` (R101). [DEDUCED: seven bits, log entry 10] -/
def Slot.note (m : Slot) : BitVec 7 := sevenBits m.b1

/-- The velocity of a key event, `m[2]` (R101). [DEDUCED: seven bits, log entry 10] -/
def Slot.velocity (m : Slot) : BitVec 7 := sevenBits m.b2

/-- `value14 = zext_14(m[1][6:0]) | (zext_14(m[2][6:0]) << 7)` (30_encoding.md R100), the low part first (20_memory.md R62). -/
def Slot.value14 (m : Slot) : BitVec 14 :=
  (sevenBits m.b1).setWidth 14 ||| ((sevenBits m.b2).setWidth 14 <<< 7)

/-- The tag of an event record (30_encoding.md R104). -/
def Event.tag {α : Type} : Event α → Nat
  | .raw _ _ _ => 0
  | .key _ _ _ => 1
  | .pitch _ => 2

/-- The code of a key state: "1 Pressed, 0 Released" (30_encoding.md R104). -/
def KeyState.code : KeyState → BitVec 1
  | .pressed => 1
  | .released => 0

end Sys2Proof.Machine
end

