-- ==== Sys2Proof/Machine/Flags.lean ====
section
/-! DEFINITION. The conditions of 10_state.md R40, "computed from the state, never stored". The hardware "has no status flags, condition codes
or predicate registers" (R23). -/

namespace Sys2Proof.Machine

variable {n : Nat}

/-- A status byte: "Bit 7 alone decides" (30_encoding.md R91). -/
def isStatus (b : Byte) : Bool := b.msb

/-- `LIMIT`, up to where a `DISPATCH` drains: `wr` when `READY_GATING = 0`, `rdy` when it is 1 (41_dispatcher.md R170). -/
def Mfe.limit (gating : Bool) (m : Mfe n) : Fin n := if gating then m.rdy else m.wr

/-- `Empty` (R40). -/
def Mfe.isEmpty (gating : Bool) (m : Mfe n) : Bool := decide (m.rd = m.limit gating)

/-- `Avail`, the number of messages the next `DISPATCH` will deliver (R40, 20_memory.md R70). -/
def Mfe.avail (gating : Bool) (m : Mfe n) : Nat := cursorDistance (m.limit gating) m.rd

/-- `InFlight`: the most recently opened slot "is still waiting for data bytes" (R40). -/
def Mfe.inFlight (m : Mfe n) : Bool := decide (m.dataIdx < m.expectedLen)

/-- `IsNoteOff(m)` (R40). -/
def Slot.isNoteOff (m : Slot) : Bool := decide (highNibble m.b0 = 0x8)

/-- `IsNoteOn(m)` (R40). -/
def Slot.isNoteOn (m : Slot) : Bool := decide (highNibble m.b0 = 0x9)

/-- `IsPitchBend(m)` (R40). -/
def Slot.isPitchBend (m : Slot) : Bool := decide (highNibble m.b0 = 0xE)

end Sys2Proof.Machine
end

