-- ==== Sys2Proof/Machine/Drain.lean ====
section
/-! DEFINITION. Draining the Event Buffer and classifying its messages (41_dispatcher.md R170 to R177, R180 to R183). -/

namespace Sys2Proof.Machine

variable {n : Nat} {α : Type}

/-- `normalized = (value14 / 16383) * 2 − 1` (R174). -/
def bendNormalized (M : NumSystem α) (m : Slot) : α :=
  M.sub (M.mul (M.div (M.ofNat m.value14.toNat) (M.ofNat 16383)) (M.ofNat 2)) (M.ofNat 1)

/-- `BendFactor(m) = 2 ^ (normalized * semitoneRange / 12)` (R174), the operations in the order of R182. -/
def bendFactor (M : NumSystem α) (semitones : BitVec 32) (m : Slot) : α :=
  M.pow2 (M.div (M.mul (bendNormalized M m) (M.ofNat semitones.toNat)) (M.ofNat 12))

/-- The classified event of a message, if it has one (R173 to R177, R183: velocity 0 is Pressed like any other). -/
def classify (M : NumSystem α) (semitones : BitVec 32) (m : Slot) : List (Event α) :=
  if m.isPitchBend then [.pitch (bendFactor M semitones m)]
  else if m.isNoteOn then [.key .pressed m.note m.velocity]
  else if m.isNoteOff then [.key .released m.note m.velocity]
  else []

/-- The events of one message: `RAW` first, "always published" (R172), then the classified event, if any (R180). -/
def messageEvents (M : NumSystem α) (semitones : BitVec 32) (m : Slot) : List (Event α) :=
  .raw m.b0 m.b1 m.b2 :: classify M semitones m

/-- `DISPATCH_ONE` (R171): the message at the read cursor is read, the cursor advances, and the events are emitted. -/
def Mfe.dispatchOne (M : NumSystem α) (m : Mfe n) : Mfe n × List (Event α) :=
  ({ m with rd := cursorNext m.rd }, messageEvents M m.semitoneRange (m.slot m.rd))

/-- `while rd != LIMIT do DISPATCH_ONE` (R170), at most `fuel` times. -/
def Mfe.drain (M : NumSystem α) (limit : Fin n) : Nat → Mfe n → Mfe n × List (Event α)
  | 0, m => (m, [])
  | fuel + 1, m =>
    if m.rd = limit then (m, [])
    else
      let one := m.dispatchOne M
      let rest := Mfe.drain M limit fuel one.1
      (rest.1, one.2 ++ rest.2)

/-- `DISPATCH` (R170) and the list it returns. `n` rounds are enough: "the loop body executes exactly `(LIMIT − rd) mod N` times". -/
def Mfe.dispatch (M : NumSystem α) (gating : Bool) (m : Mfe n) : Mfe n × List (Event α) :=
  m.drain M (m.limit gating) n

end Sys2Proof.Machine
end

