-- ==== Sys2Proof/Machine/Receive.lean ====
section
/-! DEFINITION. The steps of the MIDI stream decoder (40_decoder.md R120 to R123, 20_memory.md R78), shared by `PROCESS_BYTE` and by the 24
classes of stream byte. -/

namespace Sys2Proof.Machine

variable {n : Nat}

/-- `StatusStep(b)` (R121) of a status byte with `l` data bytes: positions 1 and 2 of the slot are not cleared. -/
def Mfe.statusStep (m : Mfe n) (b : Byte) (l : Fin 3) : Mfe n :=
  { m.writeSlot m.wr 0 b with
    runningStatus := b
    expectedLen := l
    dataIdx := 0
    wr := cursorNext m.wr }

/-- `RunningStatusOpen(b)` (R123): the new slot is the one at the old write cursor. -/
def Mfe.runningStatusOpen (m : Mfe n) (b : Byte) : Mfe n :=
  { (m.writeSlot m.wr 0 m.runningStatus).writeSlot m.wr 1 b with
    dataIdx := 1
    wr := cursorNext m.wr }

/-- `DataStep(b)` (R122): the byte goes to the most recently opened slot while its message is in flight, else it opens a new one.
The incremented index is a natural number here, and is 3 for a moment when a complete three-byte message is followed by data (R26). -/
def Mfe.dataStep (m : Mfe n) (b : Byte) : Mfe n :=
  if h : m.dataIdx.val + 1 ≤ m.expectedLen.val then
    let idx : Fin 3 := ⟨m.dataIdx.val + 1, Nat.lt_of_le_of_lt h m.expectedLen.isLt⟩
    { m.writeSlot (cursorPrev m.wr) idx b with dataIdx := idx }
  else m.runningStatusOpen b

/-- The ready cursor's update at the end of every `PROCESS_BYTE`: `if dataIdx >= expectedLen then rdy <- wr`, when
`READY_GATING = 1` (20_memory.md R78). -/
def Mfe.updateReady (gating : Bool) (m : Mfe n) : Mfe n :=
  if gating ∧ m.expectedLen ≤ m.dataIdx then { m with rdy := m.wr } else m

/-- A status byte with `l` data bytes is received. -/
def Mfe.receiveStatus (gating : Bool) (m : Mfe n) (b : Byte) (l : Fin 3) : Mfe n := (m.statusStep b l).updateReady gating

/-- A data byte is received. -/
def Mfe.receiveData (gating : Bool) (m : Mfe n) (b : Byte) : Mfe n := (m.dataStep b).updateReady gating

/-- `PROCESS_BYTE(b)` (R120), with the length of the table of 30_encoding.md R96. -/
def Mfe.processByte (gating : Bool) (m : Mfe n) (b : Byte) : Mfe n :=
  if isStatus b then m.receiveStatus gating b (len b) else m.receiveData gating b

/-- A status byte arrives at the machine: the common effect of the 23 status classes (40_decoder.md R124 to R146). -/
def receiveStatus (b : Byte) (l : Fin 3) (s : State) : Host.Outcome State Fault Refusal :=
  .next (s.withMfe (s.mfe.receiveStatus Config.readyGating b l))

end Sys2Proof.Machine
end

