-- ==== Sys2Proof/Machine/Command.lean ====
section
/-! DEFINITION. The commands of MFE, `NOP`, the reserved codes and `RESET` (40_decoder.md R120, 41_dispatcher.md R170, R178, R179 and R184,
70_reset_and_hazards.md R270). -/

namespace Sys2Proof.Machine

/-- `NOP` (R184): changes no state and returns nothing. -/
def execNop (s : State) : Host.Outcome State Fault Refusal := .next s

/-- `PROCESS_BYTE` (R120). -/
def execProcessByte (b : Byte) (s : State) : Host.Outcome State Fault Refusal :=
  .next (s.withMfe (s.mfe.processByte Config.readyGating b))

/-- `DISPATCH` (R170): writes `rd` only, and returns the event list. -/
def execDispatch (s : State) : Host.Outcome State Fault Refusal :=
  .next ((s.withMfe (s.mfe.dispatch Config.num Config.readyGating).1).emit
    (.events (s.mfe.dispatch Config.num Config.readyGating).2))

/-- `SET_SEMITONES` (R178). -/
def execSetSemitones (n : BitVec 32) (s : State) : Host.Outcome State Fault Refusal :=
  .next (s.withMfe { s.mfe with semitoneRange := n })

/-- `GET_SEMITONES` (R179). -/
def execGetSemitones (s : State) : Host.Outcome State Fault Refusal := .next (s.emit (.semitones s.mfe.semitoneRange))

/-- The reserved code `0x5` (R184): as `NOP`. -/
def execReserved5 (s : State) : Host.Outcome State Fault Refusal := .next s

/-- The reserved code `0x6` (R184): as `NOP`. -/
def execReserved6 (s : State) : Host.Outcome State Fault Refusal := .next s

/-- The reserved code `0x7` (R184): as `NOP`. -/
def execReserved7 (s : State) : Host.Outcome State Fault Refusal := .next s

/-- The reserved code `0xC` (R184): as `NOP`. -/
def execReservedC (s : State) : Host.Outcome State Fault Refusal := .next s

/-- The reserved code `0xD` (R184): as `NOP`. -/
def execReservedD (s : State) : Host.Outcome State Fault Refusal := .next s

/-- The reserved code `0xE` (R184): as `NOP`. -/
def execReservedE (s : State) : Host.Outcome State Fault Refusal := .next s

/-- `RESET` (R270): every register and every slot byte of both sub-blocks at the value of 10_state.md R42, in one step. The words
still to be taken and the results already given are no state of the block and stay. [log entry 8] -/
def execReset (s : State) : Host.Outcome State Fault Refusal :=
  .next ((s.withMfe State.reset.mfe).withOsc State.reset.osc)

end Sys2Proof.Machine
end

