-- ==== Sys2Proof/Machine/Stream.lean ====
section
/-! DEFINITION. The 24 classes of stream byte (40_decoder.md R124 to R147), each with the number of data bytes its own rule gives it. -/

namespace Sys2Proof.Machine

/-- `NOTE_OFF` (R124): `StatusStep(b)` with `expectedLen <- 2`, `b = 0x80 | lo`. -/
def execNoteOff (lo : BitVec 4) (s : State) : Host.Outcome State Fault Refusal := receiveStatus (statusByte 0x8 lo) 2 s

/-- `NOTE_ON` (R125): `StatusStep(b)` with `expectedLen <- 2`, `b = 0x90 | lo`. -/
def execNoteOn (lo : BitVec 4) (s : State) : Host.Outcome State Fault Refusal := receiveStatus (statusByte 0x9 lo) 2 s

/-- `POLY_AT` (R126): `StatusStep(b)` with `expectedLen <- 2`, `b = 0xA0 | lo`. -/
def execPolyAt (lo : BitVec 4) (s : State) : Host.Outcome State Fault Refusal := receiveStatus (statusByte 0xA lo) 2 s

/-- `CTRL_CHG` (R127): `StatusStep(b)` with `expectedLen <- 1`, `b = 0xB0 | lo`. -/
def execCtrlChg (lo : BitVec 4) (s : State) : Host.Outcome State Fault Refusal := receiveStatus (statusByte 0xB lo) 1 s

/-- `PROG_CHG` (R128): `StatusStep(b)` with `expectedLen <- 1`, `b = 0xC0 | lo`. -/
def execProgChg (lo : BitVec 4) (s : State) : Host.Outcome State Fault Refusal := receiveStatus (statusByte 0xC lo) 1 s

/-- `CHAN_AT` (R129): `StatusStep(b)` with `expectedLen <- 1`, `b = 0xD0 | lo`. -/
def execChanAt (lo : BitVec 4) (s : State) : Host.Outcome State Fault Refusal := receiveStatus (statusByte 0xD lo) 1 s

/-- `PITCH_BEND` (R130): `StatusStep(b)` with `expectedLen <- 2`, `b = 0xE0 | lo`. -/
def execPitchBend (lo : BitVec 4) (s : State) : Host.Outcome State Fault Refusal := receiveStatus (statusByte 0xE lo) 2 s

/-- `SYS_F0` (R131): `StatusStep(b)` with `expectedLen <- 0`, `b = 0xF0`. -/
def execSysF0 (s : State) : Host.Outcome State Fault Refusal := receiveStatus 0xF0 0 s

/-- `TIME_CODE` (R132): `StatusStep(b)` with `expectedLen <- 1`, `b = 0xF1`. -/
def execTimeCode (s : State) : Host.Outcome State Fault Refusal := receiveStatus 0xF1 1 s

/-- `SONG_POS` (R133): `StatusStep(b)` with `expectedLen <- 2`, `b = 0xF2`. -/
def execSongPos (s : State) : Host.Outcome State Fault Refusal := receiveStatus 0xF2 2 s

/-- `SONG_SEL` (R134): `StatusStep(b)` with `expectedLen <- 1`, `b = 0xF3`. -/
def execSongSel (s : State) : Host.Outcome State Fault Refusal := receiveStatus 0xF3 1 s

/-- `SYS_F4` (R135): `StatusStep(b)` with `expectedLen <- 0`, `b = 0xF4`. -/
def execSysF4 (s : State) : Host.Outcome State Fault Refusal := receiveStatus 0xF4 0 s

/-- `SYS_F5` (R136): `StatusStep(b)` with `expectedLen <- 0`, `b = 0xF5`. -/
def execSysF5 (s : State) : Host.Outcome State Fault Refusal := receiveStatus 0xF5 0 s

/-- `TUNE_REQ` (R137): `StatusStep(b)` with `expectedLen <- 0`, `b = 0xF6`. -/
def execTuneReq (s : State) : Host.Outcome State Fault Refusal := receiveStatus 0xF6 0 s

/-- `EOX` (R138): `StatusStep(b)` with `expectedLen <- 0`, `b = 0xF7`. -/
def execEox (s : State) : Host.Outcome State Fault Refusal := receiveStatus 0xF7 0 s

/-- `CLOCK` (R139): `StatusStep(b)` with `expectedLen <- 0`, `b = 0xF8`. -/
def execClock (s : State) : Host.Outcome State Fault Refusal := receiveStatus 0xF8 0 s

/-- `SYS_F9` (R140): `StatusStep(b)` with `expectedLen <- 0`, `b = 0xF9`. -/
def execSysF9 (s : State) : Host.Outcome State Fault Refusal := receiveStatus 0xF9 0 s

/-- `START` (R141): `StatusStep(b)` with `expectedLen <- 0`, `b = 0xFA`. -/
def execStart (s : State) : Host.Outcome State Fault Refusal := receiveStatus 0xFA 0 s

/-- `CONTINUE` (R142): `StatusStep(b)` with `expectedLen <- 0`, `b = 0xFB`. -/
def execContinueMsg (s : State) : Host.Outcome State Fault Refusal := receiveStatus 0xFB 0 s

/-- `STOP` (R143): `StatusStep(b)` with `expectedLen <- 0`, `b = 0xFC`. -/
def execStop (s : State) : Host.Outcome State Fault Refusal := receiveStatus 0xFC 0 s

/-- `SYS_FD` (R144): `StatusStep(b)` with `expectedLen <- 0`, `b = 0xFD`. -/
def execSysFD (s : State) : Host.Outcome State Fault Refusal := receiveStatus 0xFD 0 s

/-- `ACT_SENSE` (R145): `StatusStep(b)` with `expectedLen <- 0`, `b = 0xFE`. -/
def execActSense (s : State) : Host.Outcome State Fault Refusal := receiveStatus 0xFE 0 s

/-- `SYS_RESET` (R146): `StatusStep(b)` with `expectedLen <- 0`, `b = 0xFF`. It is a message like any other: "It does **not** reset the hardware". -/
def execSysReset (s : State) : Host.Outcome State Fault Refusal := receiveStatus 0xFF 0 s

/-- `DATA` (R147): `DataStep(b)` of R122, then the ready cursor's update. -/
def execData (value : BitVec 7) (s : State) : Host.Outcome State Fault Refusal :=
  .next (s.withMfe (s.mfe.receiveData Config.readyGating (dataByte value)))

end Sys2Proof.Machine
end

