-- ==== Sys2Proof/Machine/Oscillator.lean ====
section
/-! DEFINITION. The oscillator's formulas (42_oscillator.md R201 to R210) over any number system, every operation in the order R213 fixes:
left to right, parentheses first. -/

namespace Sys2Proof.Machine

variable {α : Type}

/-- `−2π`, the bound and the factor of R209 and R210. -/
def negTwoPi (M : NumSystem α) : α := M.neg M.twoPi

/-- `t = |phase| / 2π` (R202). -/
def Osc.turn (M : NumSystem α) (o : Osc α) : α := M.div (M.abs o.phase) M.twoPi

/-- `dt = |phaseInc| / 2π` (R202). -/
def Osc.turnInc (M : NumSystem α) (o : Osc α) : α := M.div (M.abs o.phaseInc) M.twoPi

/-- `Blep(t, dt)` (R203): the first test has priority. At `dt = 0` with `t > 1` the quotient is whatever NUM's division
gives, "left to `NUM`". [log entry 11] -/
def blep (M : NumSystem α) (t dt : α) : α :=
  if M.lt t dt then
    let x := M.div t dt
    M.sub (M.sub (M.mul (M.ofNat 2) x) (M.mul x x)) (M.ofNat 1)
  else if M.lt (M.sub (M.ofNat 1) dt) t then
    let x := M.div (M.sub t (M.ofNat 1)) dt
    M.add (M.add (M.mul x x) (M.mul (M.ofNat 2) x)) (M.ofNat 1)
  else M.ofNat 0

/-- The Sine output, `sin(phase)` (R201). -/
def Osc.sineOut (M : NumSystem α) (o : Osc α) : α := M.sin o.phase

/-- The Sawtooth output, `((2 · phase / 2π) − 1) − c` (R204), on the signed phase. -/
def Osc.sawOut (M : NumSystem α) (o : Osc α) : α :=
  M.sub (M.sub (M.div (M.mul (M.ofNat 2) o.phase) M.twoPi) (M.ofNat 1)) (blep M (o.turn M) (o.turnInc M))

/-- The naive square: "`+1` if `phase < π` else `−1`" (R205), on the signed phase. -/
def Osc.naiveSquare (M : NumSystem α) (o : Osc α) : α :=
  if M.lt o.phase M.pi then M.ofNat 1 else M.neg (M.ofNat 1)

/-- The Square output, `sq + Blep(t, dt) − Blep(t2, dt)` with `t2 = (t + 0.5) mod 1` (R206). -/
def Osc.squareOut (M : NumSystem α) (o : Osc α) : α :=
  M.sub (M.add (o.naiveSquare M) (blep M (o.turn M) (o.turnInc M)))
    (blep M (M.mod1 (M.add (o.turn M) M.half)) (o.turnInc M))

/-- The two one-pole stages of Triangle mode (R207), the second fed by the `stageA` just written (90_conflicts.md C2). -/
def Osc.filter (M : NumSystem α) (o : Osc α) : Osc α :=
  let newA := M.add (M.mul o.a0 (o.squareOut M)) (M.mul o.b1 o.stageA)
  { o with
    stageA := newA
    stageB := M.add (M.mul o.a0 newA) (M.mul o.b1 o.stageB) }

/-- The first wrap of R209: "if phase exceeds 2π, subtract 2π". -/
def wrapDown (M : NumSystem α) (p : α) : α := if M.lt M.twoPi p then M.sub p M.twoPi else p

/-- The second wrap of R209: "if phase is less than −2π, add 2π". -/
def wrapUp (M : NumSystem α) (p : α) : α := if M.lt p (negTwoPi M) then M.add p M.twoPi else p

/-- `AdvancePhase` (R209): each test once, the second on what the first left. -/
def Osc.advancePhase (M : NumSystem α) (o : Osc α) : Osc α :=
  { o with phase := wrapUp M (wrapDown M (M.add o.phase o.phaseInc)) }

/-- `NEXT_SAMPLE` (R200) and the sample it returns: computed from the phase before the advance; in Triangle mode it is the new `stageB`. -/
def Osc.nextSample (M : NumSystem α) (o : Osc α) : Osc α × α :=
  match o.mode with
  | .sine => (o.advancePhase M, o.sineOut M)
  | .sawtooth => (o.advancePhase M, o.sawOut M)
  | .square => (o.advancePhase M, o.squareOut M)
  | .triangle => ((o.filter M).advancePhase M, (o.filter M).stageB)

/-- The feedback coefficient of a frequency, `exp(−2π · |hz| / FS / 2)` (R210). -/
def feedback (M : NumSystem α) (fs hz : α) : α :=
  M.exp (M.div (M.div (M.mul (negTwoPi M) (M.abs hz)) fs) (M.ofNat 2))

/-- `SET_FREQUENCY(hz)` (R210): writes `phaseInc`, `B1` and `A0`, and nothing else. -/
def Osc.setFrequency (M : NumSystem α) (fs : α) (o : Osc α) (hz : α) : Osc α :=
  { o with
    phaseInc := M.div (M.mul hz M.twoPi) fs
    b1 := feedback M fs hz
    a0 := M.sub (M.ofNat 1) (feedback M fs hz) }

/-- `SET_MODE(m)` (R211): writes `mode`, and nothing else. -/
def Osc.setMode (o : Osc α) (m : Mode) : Osc α := { o with mode := m }

end Sys2Proof.Machine
end

