-- ==== Sys2Proof/Machine/Synth.lean ====
section
/-! DEFINITION. The four commands of OSC (42_oscillator.md R200, R210, R211, R212). -/

namespace Sys2Proof.Machine

/-- `NEXT_SAMPLE` (R200). -/
def execNextSample (s : State) : Host.Outcome State Fault Refusal :=
  .next ((s.withOsc (s.osc.nextSample Config.num).1).emit (.sample (s.osc.nextSample Config.num).2))

/-- `SET_FREQUENCY` (R210). -/
def execSetFrequency (hz : NumVal) (s : State) : Host.Outcome State Fault Refusal :=
  .next (s.withOsc (s.osc.setFrequency Config.num Config.sampleRate hz))

/-- `SET_MODE` (R211). -/
def execSetMode (m : Mode) (s : State) : Host.Outcome State Fault Refusal := .next (s.withOsc (s.osc.setMode m))

/-- `GET_MODE` (R212). -/
def execGetMode (s : State) : Host.Outcome State Fault Refusal := .next (s.emit (.mode s.osc.mode.code))

end Sys2Proof.Machine
end

