-- ==== Sys2Proof/Machine/Dispatch.lean ====
section
/-! DEFINITION. The meaning of every instruction, one arm per constructor. -/

namespace Sys2Proof.Machine

def exec (i : Instr) (s : State) : Host.Outcome State Fault Refusal :=
  match i with
  | .noteOff lo => Sys2Proof.Machine.execNoteOff lo s
  | .noteOn lo => Sys2Proof.Machine.execNoteOn lo s
  | .polyAt lo => Sys2Proof.Machine.execPolyAt lo s
  | .ctrlChg lo => Sys2Proof.Machine.execCtrlChg lo s
  | .progChg lo => Sys2Proof.Machine.execProgChg lo s
  | .chanAt lo => Sys2Proof.Machine.execChanAt lo s
  | .pitchBend lo => Sys2Proof.Machine.execPitchBend lo s
  | .sysF0 => Sys2Proof.Machine.execSysF0 s
  | .timeCode => Sys2Proof.Machine.execTimeCode s
  | .songPos => Sys2Proof.Machine.execSongPos s
  | .songSel => Sys2Proof.Machine.execSongSel s
  | .sysF4 => Sys2Proof.Machine.execSysF4 s
  | .sysF5 => Sys2Proof.Machine.execSysF5 s
  | .tuneReq => Sys2Proof.Machine.execTuneReq s
  | .eox => Sys2Proof.Machine.execEox s
  | .clock => Sys2Proof.Machine.execClock s
  | .sysF9 => Sys2Proof.Machine.execSysF9 s
  | .start => Sys2Proof.Machine.execStart s
  | .continueMsg => Sys2Proof.Machine.execContinueMsg s
  | .stop => Sys2Proof.Machine.execStop s
  | .sysFD => Sys2Proof.Machine.execSysFD s
  | .actSense => Sys2Proof.Machine.execActSense s
  | .sysReset => Sys2Proof.Machine.execSysReset s
  | .data value => Sys2Proof.Machine.execData value s
  | .nop => Sys2Proof.Machine.execNop s
  | .processByte b => Sys2Proof.Machine.execProcessByte b s
  | .dispatch => Sys2Proof.Machine.execDispatch s
  | .setSemitones n => Sys2Proof.Machine.execSetSemitones n s
  | .getSemitones => Sys2Proof.Machine.execGetSemitones s
  | .reserved5 => Sys2Proof.Machine.execReserved5 s
  | .reserved6 => Sys2Proof.Machine.execReserved6 s
  | .reserved7 => Sys2Proof.Machine.execReserved7 s
  | .nextSample => Sys2Proof.Machine.execNextSample s
  | .setFrequency hz => Sys2Proof.Machine.execSetFrequency hz s
  | .setMode m => Sys2Proof.Machine.execSetMode m s
  | .getMode => Sys2Proof.Machine.execGetMode s
  | .reservedC => Sys2Proof.Machine.execReservedC s
  | .reservedD => Sys2Proof.Machine.execReservedD s
  | .reservedE => Sys2Proof.Machine.execReservedE s
  | .reset => Sys2Proof.Machine.execReset s

end Sys2Proof.Machine
end

