-- ==== Sys2Proof/Machine/Fetch.lean ====
section
/-! DEFINITION. Taking the environment's next word (20_memory.md R76: "each consumed exactly once in arrival order", 10_state.md R22) and
placing a word there. -/

namespace Sys2Proof.Machine

/-- Taking one word: it is decoded and its instruction runs with the word consumed. -/
def runWord (p : Packet) (s : State) : Host.Outcome State Fault Refusal :=
  match decode p with
  | .ok i => exec i s
  | .error e => .refused (.undecodable e)

/-- One step. With no word waiting the block is "idle between commands and keeps all state" (60_exceptions.md R255; "after `RESET` the
block simply waits for commands", 70_reset_and_hazards.md R272). -/
def stepInbox (s : State) : Host.Outcome State Fault Refusal :=
  match s.inbox with
  | [] => .next s
  | p :: rest => runWord p (s.withInbox rest)

/-- The word of an opcode-table row put first among the words waiting; a number that is no word of the table changes nothing. -/
def placeWord (s : State) (nbits w : Nat) : State :=
  match packetOfTableWord nbits w with
  | none => s
  | some p => s.withInbox (p :: s.inbox)

end Sys2Proof.Machine
end

