-- ==== Sys2Proof/Machine/Step.lean ====
section
/-! DEFINITION. The machine's step, and placing a word where the step takes its next one. -/

namespace Sys2Proof.Machine

/-- One step of the machine: it takes the first word waiting and runs it, or idles. -/
def step (s : State) : Host.Outcome State Fault Refusal := stepInbox s

/-- `s` with the word of an opcode-table row first among the words waiting, so that `step` runs exactly it. -/
def State.withFetchWord (s : State) (nbits w : Nat) : State := placeWord s nbits w

end Sys2Proof.Machine
end

