-- ==== Sys2Proof/Machine/RealNum.lean ====
section
/-! DEFINITION. The number system the rules are written over: the real numbers (00_scope.md R9, 42_oscillator.md R213). The machine's own system,
`Config.num`, has no body; the oscillator's and the bend factor's operations are written once for every system, and what the
spec claims "over the real numbers" is stated of those same operations at this one. -/

namespace Sys2Proof

/-- NUM = the reals (R9, R213). -/
noncomputable def NumSystem.real : NumSystem ℝ where
  ofNat k := (k : ℝ)
  half := 1 / 2
  pi := Real.pi
  twoPi := 2 * Real.pi
  add x y := x + y
  sub x y := x - y
  mul x y := x * y
  div x y := x / y
  neg x := -x
  abs x := |x|
  sin := Real.sin
  exp := Real.exp
  pow2 x := (2 : ℝ) ^ x
  mod1 x := x - (⌊x⌋ : ℝ)
  lt x y := @decide (x < y) (Classical.propDecidable _)

end Sys2Proof
end

