-- ==== Sys2Proof/Safety.lean ====
section
/-! DEFINITION. What counts as a sound state and a safe run, and the shapes of effect that the statements name. -/

namespace Sys2Proof.Safety

open Sys2Proof.Machine

/-- The invariants of MFE in 10_state.md R41 (items 1, 2 and 4; item 3 holds by the cursors' types), the memory's canonical form
and bounds (20_memory.md R60, R65), and the ready cursor between messages (R78). -/
structure MfeInv {n : Nat} (gating : Bool) (m : Mfe n) : Prop where
  /-- The running status is a status byte, or `0x00` from reset. -/
  running : m.runningStatus = 0x00 ∨ isStatus m.runningStatus = true
  /-- Item 1. -/
  length : m.expectedLen = len m.runningStatus
  /-- Item 2. -/
  index : m.dataIdx ≤ m.expectedLen ∨ (m.dataIdx = 1 ∧ m.expectedLen = 0)
  /-- The slot memory is in its canonical form. -/
  canonical : m.slots.wf
  /-- R60, R65: no address outside `0 .. 3*N − 1` is listed. -/
  bounded : m.slots.within (3 * n)
  /-- Item 4, position 0. -/
  first : ∀ i, (m.slot i).b0 = 0x00 ∨ isStatus (m.slot i).b0 = true
  /-- Item 4, position 1. -/
  second : ∀ i, isStatus (m.slot i).b1 = false
  /-- Item 4, position 2. -/
  third : ∀ i, isStatus (m.slot i).b2 = false
  /-- With the option, everything is ready unless a message is in flight (R78). -/
  ready : gating = true → m.inFlight = false → m.rdy = m.wr
  /-- Without the option, the ready cursor stands at its reset value (10_state.md R29). -/
  unready : gating = false → m.rdy.val = 0

/-- Item 5 of 10_state.md R41 for any number system: `A0` is the (rounded) difference `1 − B1`, or both stand at their reset values. -/
def OscInv {α : Type} (M : NumSystem α) (o : Osc α) : Prop :=
  o.a0 = M.sub (M.ofNat 1) o.b1 ∨ (o.a0 = M.ofNat 0 ∧ o.b1 = M.ofNat 1)

/-- The invariant of the machine. -/
def MachineInv (s : State) : Prop := MfeInv Config.readyGating s.mfe ∧ OscInv Config.num s.osc

/-- Every word waiting is a word of the interface. -/
def Ready (s : State) : Prop := ∀ p ∈ s.inbox, p.wellFormed = true

/-- `k` steps one after another, as far as the first that does not go on (70_reset_and_hazards.md R288: a run is a finite sequence of commands). -/
def runSteps : Nat → State → Host.Outcome State Fault Refusal
  | 0, s => .next s
  | k + 1, s =>
    match step s with
    | .next t => runSteps k t
    | stopped => stopped

/-- A step, or a run, that goes on: neither a fault nor a refusal. -/
def Continues (o : Host.Outcome State Fault Refusal) : Prop := ∃ t, o = .next t

/-- Items 5 and 6 of 10_state.md R41 over the real numbers. -/
structure RealOscInv (o : Osc ℝ) : Prop where
  coefficients : o.a0 = 1 - o.b1
  positive : 0 < o.b1
  atMostOne : o.b1 ≤ 1
  increment : |o.phaseInc| ≤ 2 * Real.pi
  phase : |o.phase| ≤ 2 * Real.pi

/-- The conditions under which the samples stay in [−1, 1] over the real numbers (42_oscillator.md R220): a non-negative increment of at
most a quarter turn, a phase in the first turn, a coefficient pair as R210 sets it, and stages already in the range. -/
structure UnitRange (o : Osc ℝ) : Prop where
  coefficients : o.a0 = 1 - o.b1
  nonneg : 0 ≤ o.b1
  atMostOne : o.b1 ≤ 1
  phaseLow : 0 ≤ o.phase
  phaseHigh : o.phase ≤ 2 * Real.pi
  incLow : 0 ≤ o.phaseInc
  incHigh : o.phaseInc ≤ Real.pi / 2
  stageA : |o.stageA| ≤ 1
  stageB : |o.stageB| ≤ 1

/-- The instructions of MFE: every stream byte, `PROCESS_BYTE`, `DISPATCH` and the semitone commands (30_encoding.md R102). -/
def isMfe : Instr → Bool
  | .noteOff _ | .noteOn _ | .polyAt _ | .ctrlChg _ | .progChg _ | .chanAt _ | .pitchBend _ => true
  | .sysF0 | .timeCode | .songPos | .songSel | .sysF4 | .sysF5 | .tuneReq | .eox => true
  | .clock | .sysF9 | .start | .continueMsg | .stop | .sysFD | .actSense | .sysReset => true
  | .data _ | .processByte _ | .dispatch | .setSemitones _ | .getSemitones => true
  | .nop | .reserved5 | .reserved6 | .reserved7 => false
  | .nextSample | .setFrequency _ | .setMode _ | .getMode => false
  | .reservedC | .reservedD | .reservedE | .reset => false

/-- The instructions of OSC: `NEXT_SAMPLE`, `SET_FREQUENCY`, `SET_MODE` and `GET_MODE` (30_encoding.md R102). -/
def isOsc : Instr → Bool
  | .nextSample | .setFrequency _ | .setMode _ | .getMode => true
  | .noteOff _ | .noteOn _ | .polyAt _ | .ctrlChg _ | .progChg _ | .chanAt _ | .pitchBend _ => false
  | .sysF0 | .timeCode | .songPos | .songSel | .sysF4 | .sysF5 | .tuneReq | .eox => false
  | .clock | .sysF9 | .start | .continueMsg | .stop | .sysFD | .actSense | .sysReset => false
  | .data _ | .processByte _ | .dispatch | .setSemitones _ | .getSemitones => false
  | .nop | .reserved5 | .reserved6 | .reserved7 | .reservedC | .reservedD | .reservedE | .reset => false

/-- What everything but the decoder's own registers and the slots keeps while a stream byte is received; the ready cursor is not
written without the option (10_state.md R29). -/
def DecoderFrame (s t : State) : Prop :=
  (Config.readyGating = false → t.mfe.rdy = s.mfe.rdy) ∧
  t.mfe.rd = s.mfe.rd ∧ t.mfe.semitoneRange = s.mfe.semitoneRange ∧ t.osc = s.osc ∧ t.inbox = s.inbox ∧ t.outputs = s.outputs

/-- The outcome opens a slot under the status byte `b` of `l` data bytes: the effect of `StatusStep` (40_decoder.md R121), with every byte of
memory but `slot[wr][0]` as it was. What happens to the ready cursor when the option is built is 20_memory.md R78's, and
`Obligations.ReadyCursorFollowsCompleteMessages` says it. -/
def OpensSlot (s : State) (b : Byte) (l : Fin 3) (o : Host.Outcome State Fault Refusal) : Prop :=
  ∃ t, o = .next t ∧
    t.mfe.runningStatus = b ∧ t.mfe.expectedLen = l ∧ t.mfe.dataIdx = 0 ∧
    t.mfe.wr.val = (s.mfe.wr.val + 1) % Config.slotCount ∧
    (∀ a, t.mfe.slots.read a = if a = 3 * s.mfe.wr.val then b else s.mfe.slots.read a) ∧
    DecoderFrame s t

/-- A complete explicit message: a status byte and `LEN` data bytes (30_encoding.md R97). -/
def Complete (msg : Byte × List Byte) : Prop :=
  isStatus msg.1 = true ∧ msg.2.length = (len msg.1).val ∧ ∀ d ∈ msg.2, isStatus d = false

/-- The bytes of a message, status first (20_memory.md R62). -/
def messageBytes (msg : Byte × List Byte) : List Byte := msg.1 :: msg.2

/-- What the environment does with MFE, whole messages and whole drains at a time (40_decoder.md R149). -/
inductive Traffic where
  /-- A message with its status byte (30_encoding.md R97). -/
  | explicit (status : Byte) (data : List Byte)
  /-- A message of the running status, its data bytes alone (30_encoding.md R98). -/
  | compressed (data : List Byte)
  /-- A `DISPATCH`. -/
  | drain
deriving DecidableEq, Repr

/-- The words an item of traffic is presented as. -/
def Traffic.words : Traffic → List Packet
  | .explicit b ds => (b :: ds).map Packet.stream
  | .compressed ds => ds.map Packet.stream
  | .drain => [.command 0x2 0]

/-- A well-formed stream with drains only between its messages (40_decoder.md R149): each message is complete, and a compressed one has a running
status, of at least one data byte. The first argument is the running status that a compressed message may continue, if there is one. -/
def WellFormedTraffic : Option Byte → List Traffic → Prop
  | _, [] => True
  | _, .explicit b ds :: rest => Complete (b, ds) ∧ WellFormedTraffic (some b) rest
  | none, .compressed _ :: _ => False
  | some b, .compressed ds :: rest => (len b).val ≠ 0 ∧ Complete (b, ds) ∧ WellFormedTraffic (some b) rest
  | running, .drain :: rest => WellFormedTraffic running rest

/-- The running status a compressed message may continue from this front end: none while a message is in flight. -/
def resumable {n : Nat} (m : Mfe n) : Option Byte :=
  if m.inFlight = false ∧ m.expectedLen = len m.runningStatus then some m.runningStatus else none

/-- For each drain of the traffic the messages it is to deliver from a buffer of `n` slots (20_memory.md R72): of the `k` messages `pending` since the
drain before it, the `k mod n` most recent, in arrival order, each with its status, which a compressed message takes from `running`. -/
def deliveries (n : Nat) : Byte → List (Byte × List Byte) → List Traffic → List (List (Byte × List Byte))
  | _, _, [] => []
  | _, pending, .explicit b ds :: rest => deliveries n b (pending ++ [(b, ds)]) rest
  | running, pending, .compressed ds :: rest => deliveries n running (pending ++ [(running, ds)]) rest
  | running, pending, .drain :: rest => pending.drop (pending.length - pending.length % n) :: deliveries n running [] rest

/-- A front end takes the traffic: its state after it, and the event list of each drain. -/
def takeTraffic {n : Nat} {α : Type} (M : NumSystem α) (gating : Bool) : List Traffic → Mfe n → Mfe n × List (List (Event α))
  | [], m => (m, [])
  | .drain :: rest, m =>
    ((takeTraffic M gating rest (m.dispatch M gating).1).1,
      (m.dispatch M gating).2 :: (takeTraffic M gating rest (m.dispatch M gating).1).2)
  | .explicit b ds :: rest, m => takeTraffic M gating rest ((b :: ds).foldl (fun f d => f.processByte gating d) m)
  | .compressed ds :: rest, m => takeTraffic M gating rest (ds.foldl (fun f d => f.processByte gating d) m)

/-- The slot holds the message in stream order: position 0 its status, positions 1 to `LEN` its data bytes (40_decoder.md R149). -/
def Holds (msg : Byte × List Byte) (m : Slot) : Prop :=
  m.b0 = msg.1 ∧ (∀ d, msg.2[0]? = some d → m.b1 = d) ∧ (∀ d, msg.2[1]? = some d → m.b2 = d)

end Sys2Proof.Safety
end

