-- ==== Sys2Proof/Certificates/Slice0/Obligations.lean ====
section
/-! DEFINITION. The statements about SAL CORE for the provers. Those that name `exec` or `step` are about the machine; those about
`NumSystem.real` are about the operations the machine's meanings call, at the number system the spec's rules are written over. -/

open Sys2Proof Sys2Proof.Machine Sys2Proof.Safety

/-! ### Reset -/

/-- 10_state.md R42: the state after reset, register by register. -/
def Obligations.ResetStateHasTheSpecsValues : Prop :=
  State.reset.mfe.runningStatus = 0x00 ∧ State.reset.mfe.expectedLen = 0 ∧ State.reset.mfe.dataIdx = 0 ∧
  State.reset.mfe.wr.val = 0 ∧ State.reset.mfe.rd.val = 0 ∧ State.reset.mfe.rdy.val = 0 ∧
  State.reset.mfe.semitoneRange = 1 ∧
  (∀ i p, State.reset.mfe.slots.read (slotAddr (n := Config.slotCount) i p) = 0x00) ∧
  State.reset.osc.mode = .sine ∧ State.reset.osc.phase = Config.num.ofNat 0 ∧
  State.reset.osc.phaseInc = Config.num.ofNat 0 ∧ State.reset.osc.a0 = Config.num.ofNat 0 ∧
  State.reset.osc.b1 = Config.num.ofNat 1 ∧ State.reset.osc.stageA = Config.num.ofNat 0 ∧
  State.reset.osc.stageB = Config.num.ofNat 0

/-- 70_reset_and_hazards.md R270: `RESET` puts every register and slot byte to its reset value, from any state. That the words waiting and
the results given stay is the model's choice (log entry 8). -/
def Obligations.ResetCommandRestoresResetState : Prop :=
  ∀ s : State, exec .reset s = .next { s with mfe := State.reset.mfe, osc := State.reset.osc }

/-! ### The stream -/

/-- 40_decoder.md R121 for the seven channel-voice classes, each with the length of its own rule R124 to R130. -/
def Obligations.VoiceStatusOpensSlot : Prop := ∀ (lo : BitVec 4) (s : State),
  OpensSlot s (0x8#4 ++ lo) 2 (exec (.noteOff lo) s) ∧
  OpensSlot s (0x9#4 ++ lo) 2 (exec (.noteOn lo) s) ∧
  OpensSlot s (0xA#4 ++ lo) 2 (exec (.polyAt lo) s) ∧
  OpensSlot s (0xB#4 ++ lo) 1 (exec (.ctrlChg lo) s) ∧
  OpensSlot s (0xC#4 ++ lo) 1 (exec (.progChg lo) s) ∧
  OpensSlot s (0xD#4 ++ lo) 1 (exec (.chanAt lo) s) ∧
  OpensSlot s (0xE#4 ++ lo) 2 (exec (.pitchBend lo) s)

/-- 40_decoder.md R121 for the sixteen system bytes, each with the length of its own rule R131 to R146. -/
def Obligations.SystemStatusOpensSlot : Prop := ∀ s : State,
  OpensSlot s 0xF0 0 (exec .sysF0 s) ∧
  OpensSlot s 0xF1 1 (exec .timeCode s) ∧
  OpensSlot s 0xF2 2 (exec .songPos s) ∧
  OpensSlot s 0xF3 1 (exec .songSel s) ∧
  OpensSlot s 0xF4 0 (exec .sysF4 s) ∧
  OpensSlot s 0xF5 0 (exec .sysF5 s) ∧
  OpensSlot s 0xF6 0 (exec .tuneReq s) ∧
  OpensSlot s 0xF7 0 (exec .eox s) ∧
  OpensSlot s 0xF8 0 (exec .clock s) ∧
  OpensSlot s 0xF9 0 (exec .sysF9 s) ∧
  OpensSlot s 0xFA 0 (exec .start s) ∧
  OpensSlot s 0xFB 0 (exec .continueMsg s) ∧
  OpensSlot s 0xFC 0 (exec .stop s) ∧
  OpensSlot s 0xFD 0 (exec .sysFD s) ∧
  OpensSlot s 0xFE 0 (exec .actSense s) ∧
  OpensSlot s 0xFF 0 (exec .sysReset s)

/-- 30_encoding.md R96: the function `LEN` on all 256 bytes. -/
def Obligations.LengthTableIsTheSpecs : Prop := ∀ b : Byte,
  (len b).val =
    if b.toNat / 16 = 0x8 ∨ b.toNat / 16 = 0x9 ∨ b.toNat / 16 = 0xA ∨ b.toNat / 16 = 0xE then 2
    else if b.toNat / 16 = 0xB ∨ b.toNat / 16 = 0xC ∨ b.toNat / 16 = 0xD then 1
    else if b = 0xF1 ∨ b = 0xF3 then 1
    else if b = 0xF2 then 2
    else 0

/-- 40_decoder.md R120 and R121: `PROCESS_BYTE` of a status byte opens a slot with the length the table of R96 gives it. -/
def Obligations.ProcessByteOfStatusOpensSlot : Prop := ∀ (b : Byte) (s : State), b.msb = true →
  OpensSlot s b (len b) (exec (.processByte b) s)

/-- `PROCESS_BYTE(b)`, which looks the length up in the table of R96, completes and does what the class of `b` does, which takes the length
of its own rule (40_decoder.md R120 against R124 to R147). -/
def Obligations.ProcessByteRunsItsClass : Prop := ∀ (b : Byte) (s : State),
  ∃ t, exec (.processByte b) s = .next t ∧ exec (decodeByte b) s = .next t

/-- 40_decoder.md R122: a data byte of a message in flight goes to the next position of slot `(wr − 1) mod N`, and every other byte
of memory stays. -/
def Obligations.DataByteFillsMessageInFlight : Prop := ∀ (v : BitVec 7) (s : State),
  s.mfe.dataIdx < s.mfe.expectedLen →
  ∃ t, exec (.data v) s = .next t ∧
    t.mfe.dataIdx.val = s.mfe.dataIdx.val + 1 ∧
    (∀ a, t.mfe.slots.read a =
      if a = 3 * ((s.mfe.wr.val + (Config.slotCount - 1)) % Config.slotCount) + (s.mfe.dataIdx.val + 1) then v.setWidth 8
      else s.mfe.slots.read a) ∧
    t.mfe.runningStatus = s.mfe.runningStatus ∧ t.mfe.expectedLen = s.mfe.expectedLen ∧ t.mfe.wr = s.mfe.wr ∧
    DecoderFrame s t

/-- 40_decoder.md R122 and R123: a data byte after a complete message opens a slot under running status. -/
def Obligations.DataByteOpensRunningStatusSlot : Prop := ∀ (v : BitVec 7) (s : State),
  s.mfe.expectedLen ≤ s.mfe.dataIdx →
  ∃ t, exec (.data v) s = .next t ∧
    t.mfe.dataIdx = 1 ∧ t.mfe.wr.val = (s.mfe.wr.val + 1) % Config.slotCount ∧
    (∀ a, t.mfe.slots.read a =
      if a = 3 * s.mfe.wr.val then s.mfe.runningStatus
      else if a = 3 * s.mfe.wr.val + 1 then v.setWidth 8
      else s.mfe.slots.read a) ∧
    t.mfe.runningStatus = s.mfe.runningStatus ∧ t.mfe.expectedLen = s.mfe.expectedLen ∧
    DecoderFrame s t

/-- 20_memory.md R78: after every stream byte, by `PROCESS_BYTE` or by its class, the ready cursor of the option catches up with the write cursor
if the newest message has all its data bytes, and otherwise stays; without the option it is not written (10_state.md R29). -/
def Obligations.ReadyCursorFollowsCompleteMessages : Prop := ∀ (b : Byte) (s : State),
  ∃ t, exec (.processByte b) s = .next t ∧ exec (decodeByte b) s = .next t ∧
    t.mfe.rdy = (if Config.readyGating = true ∧ t.mfe.expectedLen.val ≤ t.mfe.dataIdx.val then t.mfe.wr else s.mfe.rdy)

/-- 20_memory.md R72, R79 and 40_decoder.md R149, on the machine: a stream of complete messages, then `DISPATCH`. Of `k` messages received
into an empty buffer the `k mod N` most recent are delivered, in arrival order, each with its own bytes, and nothing else. That words wait in
a list and that results are kept are the model's choices (log entries 7 and 8). -/
def Obligations.CompleteMessagesDeliveredInOrder : Prop := ∀ (s : State) (ms : List (Byte × List Byte)),
  (∀ m ∈ ms, Complete m) →
  s.mfe.rd = s.mfe.wr → (Config.readyGating = true → s.mfe.rdy = s.mfe.wr) →
  s.inbox = (ms.flatMap messageBytes).map Packet.stream ++ [Packet.command 0x2 0] →
  ∃ t slots, runSteps s.inbox.length s = .next t ∧
    t.outputs = s.outputs ++ [.events (slots.flatMap (messageEvents Config.num s.mfe.semitoneRange))] ∧
    slots.length = ms.length % Config.slotCount ∧
    List.Forall₂ Holds (ms.drop (ms.length - ms.length % Config.slotCount)) slots

/-- 30_encoding.md R98, 40_decoder.md R148 and R149, 20_memory.md R72 and R79, on the machine: a well-formed stream, messages with their status byte
and messages of the running status mixed, with any number of drains between messages. Each `DISPATCH` delivers, of the `k` messages since
the one before, the `k mod N` most recent, in arrival order, each under its own status and with its own data bytes. That words
wait in a list and that results are kept are the model's choices (log entries 7 and 8). -/
def Obligations.RunningStatusRepeatsTheStatus : Prop := ∀ (s : State) (ts : List Traffic),
  WellFormedTraffic (resumable s.mfe) ts →
  s.mfe.rd = s.mfe.wr → (Config.readyGating = true → s.mfe.rdy = s.mfe.wr) →
  s.inbox = ts.flatMap Traffic.words →
  ∃ t drains, runSteps s.inbox.length s = .next t ∧ t.inbox = [] ∧
    t.outputs = s.outputs ++ drains.map (fun slots => .events (slots.flatMap (messageEvents Config.num s.mfe.semitoneRange))) ∧
    List.Forall₂ (List.Forall₂ Holds) (deliveries Config.slotCount s.mfe.runningStatus [] ts) drains

/-- 20_memory.md R79: for a well-formed stream, explicit and compressed messages mixed, drained any number of times between messages, both settings of
`READY_GATING` return the same event list at every drain, and leave the same front end but for the ready cursor, which with the
option is again the write cursor: so the traffic may go on from there. -/
def Obligations.BothGatingsAgreeOnCompleteMessages : Prop :=
  ∀ (n : Nat) (α : Type) (M : NumSystem α) (m : Mfe n) (ts : List Traffic), WellFormedTraffic (resumable m) ts →
  (takeTraffic M true ts { m with rdy := m.wr }).2 = (takeTraffic M false ts m).2 ∧
  (takeTraffic M true ts { m with rdy := m.wr }).1 =
    { (takeTraffic M false ts m).1 with rdy := (takeTraffic M false ts m).1.wr }

/-! ### The dispatcher -/

/-- 41_dispatcher.md R170, R171 and R180, 20_memory.md R70: `DISPATCH` delivers the `(LIMIT − rd) mod N` messages from `rd` on, in slot order, leaves
`rd = LIMIT`, and changes nothing else. The count is an inference of the spec, the limit `rdy` its decision (D17, D18), and the kept list of
results the model's choice (log entry 8). -/
def Obligations.DispatchDrainsToItsLimit : Prop := ∀ s : State,
  exec .dispatch s = .next
    { s with
      mfe := { s.mfe with rd := if Config.readyGating then s.mfe.rdy else s.mfe.wr }
      outputs := s.outputs ++ [.events
        ((List.range (((if Config.readyGating then s.mfe.rdy else s.mfe.wr).val + (Config.slotCount - s.mfe.rd.val)) % Config.slotCount)).flatMap
          fun k => messageEvents Config.num s.mfe.semitoneRange (s.mfe.slot (cursorAdd s.mfe.rd k)))] }

/-- 20_memory.md R69 and 41_dispatcher.md R170: an empty buffer is no error; `DISPATCH` returns the empty list and changes nothing. -/
def Obligations.EmptyDispatchReturnsTheEmptyList : Prop := ∀ s : State, s.mfe.isEmpty Config.readyGating = true →
  exec .dispatch s = .next { s with outputs := s.outputs ++ [.events []] }

/-- 41_dispatcher.md R172 and R180: every message, of every class, gives its raw event first and at most one event after it. -/
def Obligations.RawEventComesFirst : Prop := ∀ (α : Type) (M : NumSystem α) (semitones : BitVec 32) (m : Slot),
  messageEvents M semitones m = .raw m.b0 m.b1 m.b2 :: classify M semitones m ∧ (classify M semitones m).length ≤ 1

/-- 41_dispatcher.md R173 and R175 to R177: the high nibble of position 0 alone selects the event that follows the raw one, if any. Positions 1 and
2 hold data bytes, as they do in every state with the invariant (10_state.md R41 item 4). -/
def Obligations.MessageClassifiedByHighNibble : Prop :=
  ∀ (α : Type) (M : NumSystem α) (semitones : BitVec 32) (b0 : Byte) (d1 d2 : BitVec 7),
  classify M semitones ⟨b0, d1.setWidth 8, d2.setWidth 8⟩ =
    if b0.toNat / 16 = 0xE then [.pitch (bendFactor M semitones ⟨b0, d1.setWidth 8, d2.setWidth 8⟩)]
    else if b0.toNat / 16 = 0x9 then [.key .pressed d1 d2]
    else if b0.toNat / 16 = 0x8 then [.key .released d1 d2]
    else []

/-- 30_encoding.md R100: the 14-bit value, least significant part first. -/
def Obligations.BendValueIsLsbFirst : Prop := ∀ m : Slot,
  m.value14.toNat = m.b1.toNat % 128 + 128 * (m.b2.toNat % 128)

/-- 41_dispatcher.md R174 and R182: the formula of the bend factor, in its order of operations, for any number system. -/
def Obligations.BendFactorFollowsTheFormula : Prop := ∀ (α : Type) (M : NumSystem α) (semitones : BitVec 32) (m : Slot),
  bendFactor M semitones m =
    M.pow2 (M.div (M.mul (M.sub (M.mul (M.div (M.ofNat m.value14.toNat) (M.ofNat 16383)) (M.ofNat 2)) (M.ofNat 1))
      (M.ofNat semitones.toNat)) (M.ofNat 12))

/-- 41_dispatcher.md R174 over the real numbers: the factor is positive, runs between `2^(∓semitoneRange/12)`, takes both ends at the ends of the
14-bit range, and is exactly 1 only for a range of 0 semitones. -/
def Obligations.RealBendFactorRange : Prop := ∀ (semitones : BitVec 32) (m : Slot),
  0 < bendFactor NumSystem.real semitones m ∧
  (2 : ℝ) ^ (-(semitones.toNat : ℝ) / 12) ≤ bendFactor NumSystem.real semitones m ∧
  bendFactor NumSystem.real semitones m ≤ (2 : ℝ) ^ ((semitones.toNat : ℝ) / 12) ∧
  (m.value14.toNat = 0 → bendFactor NumSystem.real semitones m = (2 : ℝ) ^ (-(semitones.toNat : ℝ) / 12)) ∧
  (m.value14.toNat = 16383 → bendFactor NumSystem.real semitones m = (2 : ℝ) ^ ((semitones.toNat : ℝ) / 12)) ∧
  (bendFactor NumSystem.real semitones m = 1 ↔ semitones = 0)

/-- 41_dispatcher.md R178 and R179: the range is set and read back; nothing else changes. -/
def Obligations.SemitoneRangeSetAndRead : Prop := ∀ (n : BitVec 32) (s : State),
  exec (.setSemitones n) s = .next { s with mfe := { s.mfe with semitoneRange := n } } ∧
  exec .getSemitones s = .next { s with outputs := s.outputs ++ [.semitones s.mfe.semitoneRange] }

/-- 41_dispatcher.md R184: `NOP` and the reserved codes change no state and return nothing. -/
def Obligations.NopAndReservedCodesChangeNothing : Prop := ∀ s : State,
  exec .nop s = .next s ∧ exec .reserved5 s = .next s ∧ exec .reserved6 s = .next s ∧ exec .reserved7 s = .next s ∧
  exec .reservedC s = .next s ∧ exec .reservedD s = .next s ∧ exec .reservedE s = .next s

/-! ### The oscillator, for any number system -/

/-- 42_oscillator.md R209, R200: whatever the mode, a sample advances the phase and wraps it by two tests, the second on what the first left, and
returns one value; outside Triangle mode it writes nothing else. -/
def Obligations.NextSampleAdvancesPhase : Prop := ∀ s : State, ∃ t x, exec .nextSample s = .next t ∧
  (let p := Config.num.add s.osc.phase s.osc.phaseInc
   let q := if Config.num.lt Config.num.twoPi p then Config.num.sub p Config.num.twoPi else p
   t.osc.phase = if Config.num.lt q (Config.num.neg Config.num.twoPi) then Config.num.add q Config.num.twoPi else q) ∧
  t.osc.mode = s.osc.mode ∧ t.osc.phaseInc = s.osc.phaseInc ∧ t.osc.a0 = s.osc.a0 ∧ t.osc.b1 = s.osc.b1 ∧
  (s.osc.mode ≠ .triangle → t.osc.stageA = s.osc.stageA ∧ t.osc.stageB = s.osc.stageB) ∧
  t.mfe = s.mfe ∧ t.inbox = s.inbox ∧ t.outputs = s.outputs ++ [.sample x]

/-- 42_oscillator.md R201: in Sine mode the sample is `sin(phase)`, of the phase before the advance. -/
def Obligations.SineSampleIsSinOfPhase : Prop := ∀ s : State, s.osc.mode = .sine → ∃ t, exec .nextSample s = .next t ∧
  t.outputs = s.outputs ++ [.sample (Config.num.sin s.osc.phase)] ∧
  t.osc = { s.osc with phase := t.osc.phase } ∧ t.mfe = s.mfe ∧ t.inbox = s.inbox

/-- 42_oscillator.md R202 and R204: in Sawtooth mode the sample is `((2 · phase / 2π) − 1) − Blep(t, dt)`. -/
def Obligations.SawtoothSampleIsCorrectedRamp : Prop := ∀ s : State, s.osc.mode = .sawtooth → ∃ t, exec .nextSample s = .next t ∧
  (let M := Config.num
   let u := M.div (M.abs s.osc.phase) M.twoPi
   let du := M.div (M.abs s.osc.phaseInc) M.twoPi
   t.outputs = s.outputs ++ [.sample
     (M.sub (M.sub (M.div (M.mul (M.ofNat 2) s.osc.phase) M.twoPi) (M.ofNat 1)) (blep M u du))]) ∧
  t.osc = { s.osc with phase := t.osc.phase } ∧ t.mfe = s.mfe ∧ t.inbox = s.inbox

/-- 42_oscillator.md R202, R205 and R206: in Square mode the sample is `sq + Blep(t, dt) − Blep((t + 0.5) mod 1, dt)`. -/
def Obligations.SquareSampleIsCorrectedTwice : Prop := ∀ s : State, s.osc.mode = .square → ∃ t, exec .nextSample s = .next t ∧
  (let M := Config.num
   let u := M.div (M.abs s.osc.phase) M.twoPi
   let du := M.div (M.abs s.osc.phaseInc) M.twoPi
   let sq := if M.lt s.osc.phase M.pi then M.ofNat 1 else M.neg (M.ofNat 1)
   t.outputs = s.outputs ++ [.sample (M.sub (M.add sq (blep M u du)) (blep M (M.mod1 (M.add u M.half)) du))]) ∧
  t.osc = { s.osc with phase := t.osc.phase } ∧ t.mfe = s.mfe ∧ t.inbox = s.inbox

/-- 42_oscillator.md R207 and 90_conflicts.md C2: in Triangle mode the Square output goes through both stages, the second fed by the first stage's
new value, and the sample is the new `stageB`. -/
def Obligations.TriangleSampleFiltersTheSquare : Prop := ∀ s : State, s.osc.mode = .triangle → ∃ t, exec .nextSample s = .next t ∧
  (let M := Config.num
   let u := M.div (M.abs s.osc.phase) M.twoPi
   let du := M.div (M.abs s.osc.phaseInc) M.twoPi
   let sq := if M.lt s.osc.phase M.pi then M.ofNat 1 else M.neg (M.ofNat 1)
   let sqOut := M.sub (M.add sq (blep M u du)) (blep M (M.mod1 (M.add u M.half)) du)
   let newA := M.add (M.mul s.osc.a0 sqOut) (M.mul s.osc.b1 s.osc.stageA)
   let newB := M.add (M.mul s.osc.a0 newA) (M.mul s.osc.b1 s.osc.stageB)
   t.osc = { s.osc with phase := t.osc.phase, stageA := newA, stageB := newB } ∧
   t.outputs = s.outputs ++ [.sample newB]) ∧
  t.mfe = s.mfe ∧ t.inbox = s.inbox

/-- 42_oscillator.md R203: the correction's formula and the priority of its first test, for any number system. -/
def Obligations.BlepFollowsTheFormula : Prop := ∀ (α : Type) (M : NumSystem α) (t dt : α),
  blep M t dt =
    if M.lt t dt then
      M.sub (M.sub (M.mul (M.ofNat 2) (M.div t dt)) (M.mul (M.div t dt) (M.div t dt))) (M.ofNat 1)
    else if M.lt (M.sub (M.ofNat 1) dt) t then
      M.add (M.add (M.mul (M.div (M.sub t (M.ofNat 1)) dt) (M.div (M.sub t (M.ofNat 1)) dt))
        (M.mul (M.ofNat 2) (M.div (M.sub t (M.ofNat 1)) dt))) (M.ofNat 1)
    else M.ofNat 0

/-- 42_oscillator.md R210: `SET_FREQUENCY` writes the increment and the two coefficients, and nothing else. -/
def Obligations.SetFrequencyWritesIncrementAndCoefficients : Prop := ∀ (hz : NumVal) (s : State),
  let M := Config.num
  let b := M.exp (M.div (M.div (M.mul (M.neg M.twoPi) (M.abs hz)) Config.sampleRate) (M.ofNat 2))
  exec (.setFrequency hz) s = .next
    { s with osc := { s.osc with
        phaseInc := M.div (M.mul hz M.twoPi) Config.sampleRate, b1 := b, a0 := M.sub (M.ofNat 1) b } }

/-- 42_oscillator.md R211 and R212: the mode is set and read back as its 2-bit code; nothing else changes. -/
def Obligations.ModeSetAndRead : Prop := ∀ (m : Mode) (s : State),
  exec (.setMode m) s = .next { s with osc := { s.osc with mode := m } } ∧
  exec .getMode s = .next { s with outputs := s.outputs ++ [.mode
    (match s.osc.mode with | .sine => 0 | .sawtooth => 1 | .square => 2 | .triangle => 3)] }

/-! ### The oscillator over the real numbers -/

/-- 42_oscillator.md R203 over the real numbers: the closed forms, the two windows of width `dt`, and no correction at `dt = 0` within the turn. -/
def Obligations.RealBlepClosedForms : Prop :=
  (∀ t dt : ℝ, 0 < dt →
    (t < dt → blep NumSystem.real t dt = -(1 - t / dt) ^ 2) ∧
    (dt ≤ t → 1 - dt < t → blep NumSystem.real t dt = (1 + (t - 1) / dt) ^ 2) ∧
    (dt ≤ t → t ≤ 1 - dt → blep NumSystem.real t dt = 0) ∧
    (0 ≤ t → t ≤ 1 → |blep NumSystem.real t dt| ≤ 1)) ∧
  (∀ t : ℝ, 0 ≤ t → t ≤ 1 → blep NumSystem.real t 0 = 0)

/-- 10_state.md R34 to R36 and 42_oscillator.md R210 over the real numbers, for a positive sample rate. -/
def Obligations.RealCoefficientsOfAFrequency : Prop := ∀ (fs hz : ℝ) (o : Osc ℝ), 0 < fs →
  let o' := o.setFrequency NumSystem.real fs hz
  let r := o.setFrequency NumSystem.real fs (-hz)
  o'.phaseInc = hz * (2 * Real.pi) / fs ∧ o'.b1 = Real.exp (-(Real.pi * |hz|) / fs) ∧ o'.a0 = 1 - o'.b1 ∧
  0 < o'.b1 ∧ o'.b1 ≤ 1 ∧ (o'.b1 = 1 ↔ hz = 0) ∧
  r.b1 = o'.b1 ∧ r.a0 = o'.a0 ∧ r.phaseInc = -o'.phaseInc

/-- 10_state.md R41 items 5 and 6 over the real numbers: every OSC command keeps them, a frequency of at most the sample rate granted. -/
def Obligations.RealOscillatorInvariantKept : Prop :=
  RealOscInv (Osc.reset NumSystem.real) ∧
  (∀ o, RealOscInv o → RealOscInv (o.nextSample NumSystem.real).1) ∧
  (∀ o m, RealOscInv o → RealOscInv (o.setMode m)) ∧
  (∀ o fs hz, 0 < fs → |hz| ≤ fs → RealOscInv o → RealOscInv (o.setFrequency NumSystem.real fs hz))

/-- 42_oscillator.md R201, 95_test_vectors.md S5, over the real numbers: from phase 0 the k-th Sine sample is `sin(k · phaseInc)`, for every increment. -/
def Obligations.RealSineFidelity : Prop := ∀ (o : Osc ℝ) (k : Nat), o.mode = .sine → o.phase = 0 →
  (((fun c => (c.nextSample NumSystem.real).1)^[k] o).nextSample NumSystem.real).2 = Real.sin (k * o.phaseInc)

/-- 42_oscillator.md R218 over the real numbers: across the wrap of a Sawtooth with `0 < dt <= 1/2` two successive samples differ by at most
`2 − 2dt − 1/2`. -/
def Obligations.RealSawtoothJumpBounded : Prop := ∀ o : Osc ℝ, o.mode = .sawtooth →
  0 < o.phaseInc → o.phaseInc ≤ Real.pi → 2 * Real.pi - o.phaseInc < o.phase → o.phase ≤ 2 * Real.pi →
  |((o.nextSample NumSystem.real).1.nextSample NumSystem.real).2 - (o.nextSample NumSystem.real).2|
    ≤ 2 - 2 * (o.phaseInc / (2 * Real.pi)) - 1 / 2

/-- 42_oscillator.md R220 over the real numbers: under the conditions of `UnitRange` the sample is in [−1, 1], in every mode, and the conditions
hold again after it. -/
def Obligations.RealSamplesStayInUnitRange : Prop := ∀ o : Osc ℝ, UnitRange o →
  UnitRange (o.nextSample NumSystem.real).1 ∧ |(o.nextSample NumSystem.real).2| ≤ 1

/-- 42_oscillator.md R215 over the real numbers: at a negative phase of at most a turn the naive square is +1 and the ramp lies in `[−3, −1)`. -/
def Obligations.RealNegativePhaseShapes : Prop := ∀ o : Osc ℝ, -(2 * Real.pi) ≤ o.phase → o.phase < 0 →
  o.squareOut NumSystem.real = 1 + blep NumSystem.real (|o.phase| / (2 * Real.pi)) (|o.phaseInc| / (2 * Real.pi))
    - blep NumSystem.real (Int.fract (|o.phase| / (2 * Real.pi) + 1 / 2)) (|o.phaseInc| / (2 * Real.pi)) ∧
  -3 ≤ o.sawOut NumSystem.real + blep NumSystem.real (|o.phase| / (2 * Real.pi)) (|o.phaseInc| / (2 * Real.pi)) ∧
  o.sawOut NumSystem.real + blep NumSystem.real (|o.phase| / (2 * Real.pi)) (|o.phaseInc| / (2 * Real.pi)) < -1

/-- 42_oscillator.md R214 over the real numbers: at frequency 0 nothing moves, and each mode gives its constant. -/
def Obligations.RealZeroFrequencyIsConstant : Prop := ∀ o : Osc ℝ, o.phaseInc = 0 → |o.phase| ≤ 2 * Real.pi →
  o.a0 = 0 → o.b1 = 1 →
  (o.nextSample NumSystem.real).1 = o ∧
  (o.nextSample NumSystem.real).2 =
    match o.mode with
    | .sine => Real.sin o.phase
    | .sawtooth => 2 * o.phase / (2 * Real.pi) - 1
    | .square => @ite ℝ (o.phase < Real.pi) (Classical.propDecidable _) 1 (-1)
    | .triangle => o.stageB

/-! ### Decoding, the step and the whole machine -/

/-- Decoding what an instruction encodes to gives it back, for every instruction and every operand (30_encoding.md R91 to R96, R102, R103). The word that
says its space and holds a command's argument as one number is the model's choice (log entry 5). -/
def Obligations.DecodeOfEncodeIsTheInstruction : Prop := ∀ i : Instr, decode (encode i) = .ok i

/-- A word that decodes is the encoding of what it decodes to (30_encoding.md R91 to R96, R102, R103). Two choices of the model are in it: a command word
with argument bits its command does not take decodes to nothing (log entry 9), and a stream byte and `PROCESS_BYTE` of that byte
are two words and two instructions (log entry 5). -/
def Obligations.EncodeOfDecodeIsTheWord : Prop := ∀ (p : Packet) (i : Instr), decode p = .ok i → encode i = p

/-- A few words written out from 30_encoding.md R91, R93, R94, R102 and R103. The command codes and the mode's code are the spec's own decisions (D2, D11), on
which it says no claim should depend, and that a word says which of the two spaces it is in is the model's choice (log entry 5). -/
def Obligations.WordsDecodeAsTheSpecEncodesThem : Prop :=
  decode (.stream 0b10010011) = .ok (.noteOn 3) ∧ decode (.stream 0b11100101) = .ok (.pitchBend 5) ∧
  decode (.stream 0b11110010) = .ok .songPos ∧ decode (.stream 0b11111000) = .ok .clock ∧
  decode (.stream 0b00111100) = .ok (.data 60) ∧ decode (.command 0b0001 0x90) = .ok (.processByte 0x90) ∧
  decode (.command 0b0010 0) = .ok .dispatch ∧ decode (.command 0b1010 3) = .ok (.setMode .triangle) ∧
  decode (.command 0b1111 0) = .ok .reset

/-- The step takes the first word waiting and runs the instruction it decodes to, with the word consumed (20_memory.md R76); with no word waiting it
keeps all state (60_exceptions.md R255). That words wait in a list is the model's choice (log entry 7). -/
def Obligations.StepRunsTheDecodedInstruction : Prop :=
  (∀ (s : State) (p : Packet) (rest : List Packet) (i : Instr), s.inbox = p :: rest → decode p = .ok i →
    step s = exec i { s with inbox := rest }) ∧
  (∀ s : State, s.inbox = [] → step s = .next s)

/-- A word whose argument does not fit its command is refused (the model's choice, log entry 9). -/
def Obligations.MalformedWordIsRefused : Prop := ∀ (s : State) (op : BitVec 4) (arg : Nat) (rest : List Packet),
  s.inbox = .command op arg :: rest → (Packet.command op arg).wellFormed = false →
  step s = .refused (.undecodable (.operandTooWide op))

/-- 60_exceptions.md R240 and R244: given words of the interface, a run of any length goes on: no command faults, blocks or is refused, whatever the state. -/
def Obligations.RunsOfWordsNeverStop : Prop := ∀ (k : Nat) (s : State), Ready s →
  Continues (runSteps k s)

/-- 10_state.md R41: every step keeps the invariant. -/
def Obligations.StepKeepsTheInvariant : Prop := ∀ s t : State, MachineInv s → step s = .next t → MachineInv t

/-- 10_state.md R41: the invariant holds after reset. -/
def Obligations.ResetStateMeetsTheInvariant : Prop := MachineInv State.reset

/-- 00_scope.md R2, 20_memory.md R73, 42_oscillator.md R222: the sub-blocks share no state. An MFE command leaves OSC alone, and its new MFE and the
results it returns depend on nothing of OSC; the other way round; and one of each in either order leaves the same registers and memory and
returns the same results. (That results are appended to a list is the model's choice, log entry 8.) -/
def Obligations.SubBlocksDoNotInterfere : Prop :=
  (∀ (i : Instr) (s t : State), isMfe i = true → exec i s = .next t → t.osc = s.osc) ∧
  (∀ (i : Instr) (s t : State), isOsc i = true → exec i s = .next t → t.mfe = s.mfe) ∧
  (∀ (i : Instr) (s s' t t' : State), isMfe i = true → s.mfe = s'.mfe → exec i s = .next t → exec i s' = .next t' →
    t.mfe = t'.mfe ∧ ∃ rs, t.outputs = s.outputs ++ rs ∧ t'.outputs = s'.outputs ++ rs) ∧
  (∀ (i : Instr) (s s' t t' : State), isOsc i = true → s.osc = s'.osc → exec i s = .next t → exec i s' = .next t' →
    t.osc = t'.osc ∧ ∃ rs, t.outputs = s.outputs ++ rs ∧ t'.outputs = s'.outputs ++ rs) ∧
  (∀ (i j : Instr) (s t u t' u' : State), isMfe i = true → isOsc j = true →
    exec i s = .next t → exec j t = .next u → exec j s = .next t' → exec i t' = .next u' →
    u.mfe = u'.mfe ∧ u.osc = u'.osc ∧ ∃ rs qs,
      t.outputs = s.outputs ++ rs ∧ u.outputs = t.outputs ++ qs ∧ t'.outputs = s.outputs ++ qs ∧ u'.outputs = t'.outputs ++ rs)
end

