-- ==== Sys2Proof/Laws/Memory.lean ====
section
/-! SUPPORT. Reading after writing, the canonical form, and the cursors. -/

namespace Sys2Proof.Laws

open Sys2Proof.Machine

theorem cellsErase_cons (c : Host.Cell) (cs : List Host.Cell) (a : Nat) :
    cellsErase (c :: cs) a = if c.1 = a then cellsErase cs a else c :: cellsErase cs a := by
  by_cases h : c.1 = a <;> simp [cellsErase, h]

theorem cellsRead_erase_same (cs : List Host.Cell) (a : Nat) : cellsRead (cellsErase cs a) a = Memory.unlisted := by
  induction cs with
  | nil => rfl
  | cons c cs ih => by_cases h : c.1 = a <;> simp [cellsErase_cons, cellsRead, h, ih]

theorem cellsRead_erase_other (cs : List Host.Cell) {a b : Nat} (hab : b ≠ a) :
    cellsRead (cellsErase cs a) b = cellsRead cs b := by
  induction cs with
  | nil => rfl
  | cons c cs ih => by_cases h : c.1 = a <;> simp [cellsErase_cons, cellsRead, h, ih, Ne.symm hab]

theorem cellsRead_insert_same (c : Host.Cell) (cs : List Host.Cell) (h : ∀ d ∈ cs, d.1 ≠ c.1) :
    cellsRead (cellsInsert c cs) c.1 = c.2 := by
  induction cs with
  | nil => simp [cellsInsert, cellsRead]
  | cons d ds ih =>
    have hd := h d (by simp)
    have := ih (fun e he => h e (by simp [he]))
    unfold cellsInsert
    split <;> simp [cellsRead, hd, this]

theorem cellsRead_insert_other (c : Host.Cell) (cs : List Host.Cell) {b : Nat} (h : b ≠ c.1) :
    cellsRead (cellsInsert c cs) b = cellsRead cs b := by
  induction cs with
  | nil => simp [cellsInsert, cellsRead, Ne.symm h]
  | cons d ds ih =>
    unfold cellsInsert
    split <;> simp [cellsRead, Ne.symm h, ih]

theorem mem_cellsErase {cs : List Host.Cell} {a : Nat} {c : Host.Cell} : c ∈ cellsErase cs a ↔ c ∈ cs ∧ c.1 ≠ a := by
  simp [cellsErase]

theorem mem_cellsInsert {c d : Host.Cell} {cs : List Host.Cell} : d ∈ cellsInsert c cs ↔ d = c ∨ d ∈ cs := by
  induction cs with
  | nil => simp [cellsInsert]
  | cons e es ih =>
    unfold cellsInsert
    split
    · simp
    · simp only [List.mem_cons, ih]
      tauto

theorem cellsInsert_pairwise (c : Host.Cell) (cs : List Host.Cell) (hs : cs.Pairwise (fun c d => c.1 < d.1))
    (hc : ∀ d ∈ cs, d.1 ≠ c.1) : (cellsInsert c cs).Pairwise (fun c d => c.1 < d.1) := by
  induction cs with
  | nil => simp [cellsInsert]
  | cons d ds ih =>
    rw [List.pairwise_cons] at hs
    unfold cellsInsert
    split
    · rename_i hlt
      refine List.pairwise_cons.2 ⟨fun e he => ?_, List.pairwise_cons.2 hs⟩
      rcases List.mem_cons.1 he with rfl | he
      · exact hlt
      · exact hlt.trans (hs.1 e he)
    · rename_i hlt
      have hne := hc d (by simp)
      refine List.pairwise_cons.2 ⟨fun e he => ?_, ih hs.2 fun e he => hc e (by simp [he])⟩
      rcases mem_cellsInsert.1 he with rfl | he
      · omega
      · exact hs.1 e he

/-- Everything a write does, read back: the byte written at its address, every other byte as it was. No form of the memory is assumed. -/
theorem Memory.read_write (m : Memory) (a b : Nat) (v : Byte) :
    (m.write a v).read b = if b = a then v else m.read b := by
  unfold Memory.read Memory.write
  by_cases h : b = a <;> by_cases hv : v = Memory.unlisted
  · simp [h, hv, cellsRead_erase_same]
  · simpa [h, hv] using cellsRead_insert_same (a, v) _ (fun d hd => (mem_cellsErase.1 hd).2)
  · simp [h, hv, cellsRead_erase_other _ h]
  · rw [if_neg hv, if_neg h, cellsRead_insert_other _ _ h, cellsRead_erase_other _ h]

@[simp] theorem Memory.read_write_same (m : Memory) (a : Nat) (v : Byte) : (m.write a v).read a = v := by
  simp [Memory.read_write]

theorem Memory.read_write_other (m : Memory) {a b : Nat} (v : Byte) (h : b ≠ a) : (m.write a v).read b = m.read b := by
  simp [Memory.read_write, h]

/-- A write keeps the canonical form. -/
theorem Memory.write_wf {m : Memory} (h : m.wf) (a : Nat) (v : Byte) : (m.write a v).wf := by
  have hs : (cellsErase m.cells a).Pairwise (fun c d => c.1 < d.1) := h.1.filter _
  unfold Memory.write
  split
  · exact ⟨hs, fun c hc => h.2 c (mem_cellsErase.1 hc).1⟩
  · rename_i hv
    refine ⟨cellsInsert_pairwise _ _ hs fun d hd => (mem_cellsErase.1 hd).2, fun c hc => ?_⟩
    rcases mem_cellsInsert.1 hc with rfl | hc
    · exact hv
    · exact h.2 c (mem_cellsErase.1 hc).1

/-- A write inside the address space keeps the list inside it. -/
theorem Memory.write_within {m : Memory} {limit a : Nat} (h : m.within limit) (ha : a < limit) (v : Byte) :
    (m.write a v).within limit := by
  intro c hc
  unfold Memory.write at hc
  split at hc
  · exact h c (mem_cellsErase.1 hc).1
  · rcases mem_cellsInsert.1 hc with rfl | hc
    · exact ha
    · exact h c (mem_cellsErase.1 hc).1

/-- The empty list is canonical. -/
theorem Memory.empty_wf : Memory.wf ⟨[]⟩ := by decide

@[simp] theorem Memory.read_empty (a : Nat) : Memory.read ⟨[]⟩ a = Memory.unlisted := rfl

/-! ### Slots and cursors -/

variable {n : Nat}

/-- "No access ever has an address outside `0 .. 3*N − 1`" (20_memory.md R61). -/
theorem slotAddr_lt (i : Fin n) (p : Fin 3) : slotAddr i p < 3 * n := by
  unfold slotAddr; omega

/-- Two slot bytes share an address only when they are the same byte. -/
theorem slotAddr_inj {i j : Fin n} {p q : Fin 3} : slotAddr i p = slotAddr j q ↔ i = j ∧ p = q := by
  unfold slotAddr; constructor
  · intro h; exact ⟨Fin.ext (by omega), Fin.ext (by omega)⟩
  · rintro ⟨rfl, rfl⟩; rfl

@[simp] theorem cursorNext_val (c : Fin n) : (cursorNext c).val = (c.val + 1) % n := rfl
@[simp] theorem cursorPrev_val (c : Fin n) : (cursorPrev c).val = (c.val + (n - 1)) % n := rfl
@[simp] theorem cursorAdd_val (c : Fin n) (k : Nat) : (cursorAdd c k).val = (c.val + k) % n := rfl

/-- The most recently opened slot is found again after the advance (40_decoder.md R123). -/
@[simp] theorem cursorPrev_next (c : Fin n) : cursorPrev (cursorNext c) = c := by
  apply Fin.ext
  have := c.isLt
  simp only [cursorPrev_val, cursorNext_val, Nat.mod_add_mod]
  rw [show c.val + 1 + (n - 1) = c.val + n by omega, Nat.add_mod_right, Nat.mod_eq_of_lt this]

/-- The distance is zero just when the cursors meet (20_memory.md R69). -/
theorem cursorDistance_eq_zero (l c : Fin n) : cursorDistance l c = 0 ↔ c = l := by
  have hl := l.isLt
  have hc := c.isLt
  unfold cursorDistance
  constructor
  · intro h
    apply Fin.ext
    rcases Nat.lt_or_ge (l.val + (n - c.val)) n with h1 | h1
    · rw [Nat.mod_eq_of_lt h1] at h; omega
    · rw [Nat.mod_eq_sub_mod h1, Nat.mod_eq_of_lt (by omega)] at h; omega
  · rintro rfl
    rw [show c.val + (n - c.val) = n by omega, Nat.mod_self]

/-- Every advance brings the cursor one nearer to a limit it has not reached (41_dispatcher.md R170). -/
theorem cursorDistance_next {l c : Fin n} (h : c ≠ l) : cursorDistance l (cursorNext c) + 1 = cursorDistance l c := by
  have hl := l.isLt
  have hc := c.isLt
  have hne : c.val ≠ l.val := fun e => h (Fin.ext e)
  unfold cursorDistance
  simp only [cursorNext_val]
  rcases Nat.lt_or_ge (c.val + 1) n with h1 | h1
  · rw [Nat.mod_eq_of_lt h1]
    rcases Nat.lt_or_ge c.val l.val with h2 | h2
    · rw [Nat.mod_eq_sub_mod (by omega), Nat.mod_eq_of_lt (by omega), Nat.mod_eq_sub_mod (by omega), Nat.mod_eq_of_lt (by omega)]
      omega
    · rw [Nat.mod_eq_of_lt (by omega), Nat.mod_eq_of_lt (by omega)]
      omega
  · rw [show c.val + 1 = n by omega, Nat.mod_self, Nat.sub_zero, Nat.add_mod_right, Nat.mod_eq_of_lt hl,
      Nat.mod_eq_of_lt (by omega)]
    omega

theorem cursorDistance_lt (l c : Fin n) : cursorDistance l c < n :=
  Nat.mod_lt _ (Nat.lt_of_le_of_lt (Nat.zero_le _) c.isLt)

@[simp] theorem cursorAdd_zero (c : Fin n) : cursorAdd c 0 = c := Fin.ext (by simp [Nat.mod_eq_of_lt c.isLt])

theorem cursorAdd_next (c : Fin n) (k : Nat) : cursorAdd (cursorNext c) k = cursorAdd c (k + 1) :=
  Fin.ext (by simp [Nat.add_assoc, Nat.add_comm 1 k])

end Sys2Proof.Laws
end

