-- ==== Sys2Proof/Laws/Drain.lean ====
section
/-! SUPPORT. The dispatcher's small lemmas. -/

namespace Sys2Proof.Laws

open Sys2Proof.Machine

variable {n : Nat} {α : Type} (M : NumSystem α) (m : Mfe n) (lim : Fin n) (k : Nat)

@[simp] theorem dispatchOne_fst : (m.dispatchOne M).1 = { m with rd := cursorNext m.rd } := rfl
@[simp] theorem dispatchOne_snd : (m.dispatchOne M).2 = messageEvents M m.semitoneRange (m.slot m.rd) := rfl
@[simp] theorem drain_zero : m.drain M lim 0 = (m, []) := rfl
theorem drain_done (h : m.rd = lim) : m.drain M lim k = (m, []) := by cases k <;> simp [Mfe.drain, h]
theorem drain_succ (h : m.rd ≠ lim) : m.drain M lim (k + 1) =
    (((m.dispatchOne M).1.drain M lim k).1, (m.dispatchOne M).2 ++ ((m.dispatchOne M).1.drain M lim k).2) := by
  simp [Mfe.drain, h]

/-- A slot read whole is the three bytes at `3*i` (20_memory.md R61). -/
theorem slot_readBytes (i : Fin n) : m.slots.readBytes (3 * i.val) 3 = [(m.slot i).b0, (m.slot i).b1, (m.slot i).b2] := rfl

/-- The buffer is empty just when no message is available (20_memory.md R69, R70). -/
theorem isEmpty_iff_avail (g : Bool) : m.isEmpty g = true ↔ m.avail g = 0 := by
  simp [Mfe.isEmpty, Mfe.avail, cursorDistance_eq_zero]

/-- "at most `N − 1`" messages are available (41_dispatcher.md R170). -/
theorem avail_lt (g : Bool) : m.avail g < n := cursorDistance_lt _ _

/-- Moving the read cursor alone moves no slot. -/
@[simp] theorem slot_withRd (c i : Fin n) : ({ m with rd := c } : Mfe n).slot i = m.slot i := rfl

end Sys2Proof.Laws
end

