-- ==== Sys2Proof/Laws/Oscillator.lean ====
section
/-! SUPPORT. What each oscillator operation writes and keeps. -/

namespace Sys2Proof.Laws

open Sys2Proof.Machine

variable {α : Type} (M : NumSystem α) (o : Osc α) (fs hz : α) (md : Mode)

@[simp] theorem advancePhase_mode : (o.advancePhase M).mode = o.mode := rfl
@[simp] theorem advancePhase_phase : (o.advancePhase M).phase = wrapUp M (wrapDown M (M.add o.phase o.phaseInc)) := rfl
@[simp] theorem advancePhase_phaseInc : (o.advancePhase M).phaseInc = o.phaseInc := rfl
@[simp] theorem advancePhase_a0 : (o.advancePhase M).a0 = o.a0 := rfl
@[simp] theorem advancePhase_b1 : (o.advancePhase M).b1 = o.b1 := rfl
@[simp] theorem advancePhase_stageA : (o.advancePhase M).stageA = o.stageA := rfl
@[simp] theorem advancePhase_stageB : (o.advancePhase M).stageB = o.stageB := rfl

@[simp] theorem filter_mode : (o.filter M).mode = o.mode := rfl
@[simp] theorem filter_phase : (o.filter M).phase = o.phase := rfl
@[simp] theorem filter_phaseInc : (o.filter M).phaseInc = o.phaseInc := rfl
@[simp] theorem filter_a0 : (o.filter M).a0 = o.a0 := rfl
@[simp] theorem filter_b1 : (o.filter M).b1 = o.b1 := rfl
theorem filter_stageA : (o.filter M).stageA = M.add (M.mul o.a0 (o.squareOut M)) (M.mul o.b1 o.stageA) := rfl
theorem filter_stageB : (o.filter M).stageB = M.add (M.mul o.a0 (o.filter M).stageA) (M.mul o.b1 o.stageB) := rfl

/-- A sample moves the phase, whatever the mode, and keeps everything but the two stages. -/
@[simp] theorem nextSample_mode : (o.nextSample M).1.mode = o.mode := by unfold Osc.nextSample; split <;> rfl
@[simp] theorem nextSample_phase : (o.nextSample M).1.phase = wrapUp M (wrapDown M (M.add o.phase o.phaseInc)) := by
  unfold Osc.nextSample; split <;> rfl
@[simp] theorem nextSample_phaseInc : (o.nextSample M).1.phaseInc = o.phaseInc := by unfold Osc.nextSample; split <;> rfl
@[simp] theorem nextSample_a0 : (o.nextSample M).1.a0 = o.a0 := by unfold Osc.nextSample; split <;> rfl
@[simp] theorem nextSample_b1 : (o.nextSample M).1.b1 = o.b1 := by unfold Osc.nextSample; split <;> rfl

@[simp] theorem setFrequency_mode : (o.setFrequency M fs hz).mode = o.mode := rfl
@[simp] theorem setFrequency_phase : (o.setFrequency M fs hz).phase = o.phase := rfl
@[simp] theorem setFrequency_phaseInc : (o.setFrequency M fs hz).phaseInc = M.div (M.mul hz M.twoPi) fs := rfl
@[simp] theorem setFrequency_a0 : (o.setFrequency M fs hz).a0 = M.sub (M.ofNat 1) (feedback M fs hz) := rfl
@[simp] theorem setFrequency_b1 : (o.setFrequency M fs hz).b1 = feedback M fs hz := rfl
@[simp] theorem setFrequency_stageA : (o.setFrequency M fs hz).stageA = o.stageA := rfl
@[simp] theorem setFrequency_stageB : (o.setFrequency M fs hz).stageB = o.stageB := rfl

@[simp] theorem setMode_mode : (o.setMode md).mode = md := rfl
@[simp] theorem setMode_phase : (o.setMode md).phase = o.phase := rfl
@[simp] theorem setMode_phaseInc : (o.setMode md).phaseInc = o.phaseInc := rfl
@[simp] theorem setMode_a0 : (o.setMode md).a0 = o.a0 := rfl
@[simp] theorem setMode_b1 : (o.setMode md).b1 = o.b1 := rfl
@[simp] theorem setMode_stageA : (o.setMode md).stageA = o.stageA := rfl
@[simp] theorem setMode_stageB : (o.setMode md).stageB = o.stageB := rfl

end Sys2Proof.Laws
end

