-- ==== Sys2Proof/Laws/PerInstr.lean ====
section
/-! SUPPORT. A statement made instruction by instruction: the word an instruction encodes to is a word of the interface (WellFormed.lean). -/

namespace Sys2Proof.Laws

/-- The encoding of an instruction is a word of the interface. -/
def EncodeFits.Statement (i : Instr) : Prop := (encode i).wellFormed = true

theorem EncodeFits.noteOff (lo : BitVec 4) : EncodeFits.Statement (.noteOff lo) := rfl
theorem EncodeFits.noteOn (lo : BitVec 4) : EncodeFits.Statement (.noteOn lo) := rfl
theorem EncodeFits.polyAt (lo : BitVec 4) : EncodeFits.Statement (.polyAt lo) := rfl
theorem EncodeFits.ctrlChg (lo : BitVec 4) : EncodeFits.Statement (.ctrlChg lo) := rfl
theorem EncodeFits.progChg (lo : BitVec 4) : EncodeFits.Statement (.progChg lo) := rfl
theorem EncodeFits.chanAt (lo : BitVec 4) : EncodeFits.Statement (.chanAt lo) := rfl
theorem EncodeFits.pitchBend (lo : BitVec 4) : EncodeFits.Statement (.pitchBend lo) := rfl
theorem EncodeFits.sysF0 : EncodeFits.Statement .sysF0 := rfl
theorem EncodeFits.timeCode : EncodeFits.Statement .timeCode := rfl
theorem EncodeFits.songPos : EncodeFits.Statement .songPos := rfl
theorem EncodeFits.songSel : EncodeFits.Statement .songSel := rfl
theorem EncodeFits.sysF4 : EncodeFits.Statement .sysF4 := rfl
theorem EncodeFits.sysF5 : EncodeFits.Statement .sysF5 := rfl
theorem EncodeFits.tuneReq : EncodeFits.Statement .tuneReq := rfl
theorem EncodeFits.eox : EncodeFits.Statement .eox := rfl
theorem EncodeFits.clock : EncodeFits.Statement .clock := rfl
theorem EncodeFits.sysF9 : EncodeFits.Statement .sysF9 := rfl
theorem EncodeFits.start : EncodeFits.Statement .start := rfl
theorem EncodeFits.continueMsg : EncodeFits.Statement .continueMsg := rfl
theorem EncodeFits.stop : EncodeFits.Statement .stop := rfl
theorem EncodeFits.sysFD : EncodeFits.Statement .sysFD := rfl
theorem EncodeFits.actSense : EncodeFits.Statement .actSense := rfl
theorem EncodeFits.sysReset : EncodeFits.Statement .sysReset := rfl
theorem EncodeFits.data (value : BitVec 7) : EncodeFits.Statement (.data value) := rfl
theorem EncodeFits.nop : EncodeFits.Statement .nop := rfl
theorem EncodeFits.processByte (b : Byte) : EncodeFits.Statement (.processByte b) :=
  decide_eq_true (show b.toNat < 2 ^ 8 from b.isLt)
theorem EncodeFits.dispatch : EncodeFits.Statement .dispatch := rfl
theorem EncodeFits.setSemitones (n : BitVec 32) : EncodeFits.Statement (.setSemitones n) :=
  decide_eq_true (show n.toNat < 2 ^ 32 from n.isLt)
theorem EncodeFits.getSemitones : EncodeFits.Statement .getSemitones := rfl
theorem EncodeFits.reserved5 : EncodeFits.Statement .reserved5 := rfl
theorem EncodeFits.reserved6 : EncodeFits.Statement .reserved6 := rfl
theorem EncodeFits.reserved7 : EncodeFits.Statement .reserved7 := rfl
theorem EncodeFits.nextSample : EncodeFits.Statement .nextSample := rfl
theorem EncodeFits.setFrequency (hz : NumVal) : EncodeFits.Statement (.setFrequency hz) := rfl
theorem EncodeFits.setMode (m : Mode) : EncodeFits.Statement (.setMode m) :=
  decide_eq_true (show m.code.toNat < 2 ^ 2 from m.code.isLt)
theorem EncodeFits.getMode : EncodeFits.Statement .getMode := rfl
theorem EncodeFits.reservedC : EncodeFits.Statement .reservedC := rfl
theorem EncodeFits.reservedD : EncodeFits.Statement .reservedD := rfl
theorem EncodeFits.reservedE : EncodeFits.Statement .reservedE := rfl
theorem EncodeFits.reset : EncodeFits.Statement .reset := rfl

end Sys2Proof.Laws
end

