-- ==== Sys2Proof/Laws/RealNum.lean ====
section
/-! SUPPORT. Each operation of the real number system, in Mathlib's own words. -/

namespace Sys2Proof.Laws

variable (x y : ℝ) (k : Nat)

@[simp] theorem real_ofNat : NumSystem.real.ofNat k = (k : ℝ) := rfl
@[simp] theorem real_half : NumSystem.real.half = 1 / 2 := rfl
@[simp] theorem real_pi : NumSystem.real.pi = Real.pi := rfl
@[simp] theorem real_twoPi : NumSystem.real.twoPi = 2 * Real.pi := rfl
@[simp] theorem real_add : NumSystem.real.add x y = x + y := rfl
@[simp] theorem real_sub : NumSystem.real.sub x y = x - y := rfl
@[simp] theorem real_mul : NumSystem.real.mul x y = x * y := rfl
@[simp] theorem real_div : NumSystem.real.div x y = x / y := rfl
@[simp] theorem real_neg : NumSystem.real.neg x = -x := rfl
@[simp] theorem real_abs : NumSystem.real.abs x = |x| := rfl
@[simp] theorem real_sin : NumSystem.real.sin x = Real.sin x := rfl
@[simp] theorem real_exp : NumSystem.real.exp x = Real.exp x := rfl
@[simp] theorem real_pow2 : NumSystem.real.pow2 x = (2 : ℝ) ^ x := rfl
@[simp] theorem real_mod1 : NumSystem.real.mod1 x = x - (⌊x⌋ : ℝ) := rfl
@[simp] theorem real_lt : NumSystem.real.lt x y = true ↔ x < y := by simp [NumSystem.real]

end Sys2Proof.Laws
end

