-- ==== Sys2Proof/Laws/State.lean ====
section
/-! SUPPORT. One lemma per field per update of the state, each true by `rfl`. -/

namespace Sys2Proof.Laws

open Sys2Proof.Machine

variable (s : State) (m : Mfe Config.slotCount) (o : Osc NumVal) (r : Output NumVal) (ws : List Packet)

@[simp] theorem withMfe_mfe : (s.withMfe m).mfe = m := rfl
@[simp] theorem withMfe_osc : (s.withMfe m).osc = s.osc := rfl
@[simp] theorem withMfe_inbox : (s.withMfe m).inbox = s.inbox := rfl
@[simp] theorem withMfe_outputs : (s.withMfe m).outputs = s.outputs := rfl

@[simp] theorem withOsc_mfe : (s.withOsc o).mfe = s.mfe := rfl
@[simp] theorem withOsc_osc : (s.withOsc o).osc = o := rfl
@[simp] theorem withOsc_inbox : (s.withOsc o).inbox = s.inbox := rfl
@[simp] theorem withOsc_outputs : (s.withOsc o).outputs = s.outputs := rfl

@[simp] theorem emit_mfe : (s.emit r).mfe = s.mfe := rfl
@[simp] theorem emit_osc : (s.emit r).osc = s.osc := rfl
@[simp] theorem emit_inbox : (s.emit r).inbox = s.inbox := rfl
@[simp] theorem emit_outputs : (s.emit r).outputs = s.outputs ++ [r] := rfl

@[simp] theorem withInbox_mfe : (s.withInbox ws).mfe = s.mfe := rfl
@[simp] theorem withInbox_osc : (s.withInbox ws).osc = s.osc := rfl
@[simp] theorem withInbox_inbox : (s.withInbox ws).inbox = ws := rfl
@[simp] theorem withInbox_outputs : (s.withInbox ws).outputs = s.outputs := rfl

variable {n : Nat} (f : Mfe n) (i : Fin n) (p : Fin 3) (v : Byte)

@[simp] theorem writeSlot_runningStatus : (f.writeSlot i p v).runningStatus = f.runningStatus := rfl
@[simp] theorem writeSlot_expectedLen : (f.writeSlot i p v).expectedLen = f.expectedLen := rfl
@[simp] theorem writeSlot_dataIdx : (f.writeSlot i p v).dataIdx = f.dataIdx := rfl
@[simp] theorem writeSlot_wr : (f.writeSlot i p v).wr = f.wr := rfl
@[simp] theorem writeSlot_rd : (f.writeSlot i p v).rd = f.rd := rfl
@[simp] theorem writeSlot_rdy : (f.writeSlot i p v).rdy = f.rdy := rfl
@[simp] theorem writeSlot_semitoneRange : (f.writeSlot i p v).semitoneRange = f.semitoneRange := rfl
@[simp] theorem writeSlot_slots : (f.writeSlot i p v).slots = f.slots.write (slotAddr i p) v := rfl

end Sys2Proof.Laws
end

