-- ==== Sys2Proof/Laws/Receive.lean ====
section
/-! SUPPORT. What each step of the decoder can do, said once. -/

namespace Sys2Proof.Laws

open Sys2Proof.Machine

variable {n : Nat} (g : Bool) (m : Mfe n) (b : Byte) (l : Fin 3)

@[simp] theorem statusStep_runningStatus : (m.statusStep b l).runningStatus = b := rfl
@[simp] theorem statusStep_expectedLen : (m.statusStep b l).expectedLen = l := rfl
@[simp] theorem statusStep_dataIdx : (m.statusStep b l).dataIdx = 0 := rfl
@[simp] theorem statusStep_wr : (m.statusStep b l).wr = cursorNext m.wr := rfl
@[simp] theorem statusStep_rd : (m.statusStep b l).rd = m.rd := rfl
@[simp] theorem statusStep_rdy : (m.statusStep b l).rdy = m.rdy := rfl
@[simp] theorem statusStep_semitoneRange : (m.statusStep b l).semitoneRange = m.semitoneRange := rfl
@[simp] theorem statusStep_slots : (m.statusStep b l).slots = m.slots.write (slotAddr m.wr 0) b := rfl

@[simp] theorem runningStatusOpen_runningStatus : (m.runningStatusOpen b).runningStatus = m.runningStatus := rfl
@[simp] theorem runningStatusOpen_expectedLen : (m.runningStatusOpen b).expectedLen = m.expectedLen := rfl
@[simp] theorem runningStatusOpen_dataIdx : (m.runningStatusOpen b).dataIdx = 1 := rfl
@[simp] theorem runningStatusOpen_wr : (m.runningStatusOpen b).wr = cursorNext m.wr := rfl
@[simp] theorem runningStatusOpen_rd : (m.runningStatusOpen b).rd = m.rd := rfl
@[simp] theorem runningStatusOpen_rdy : (m.runningStatusOpen b).rdy = m.rdy := rfl
@[simp] theorem runningStatusOpen_semitoneRange : (m.runningStatusOpen b).semitoneRange = m.semitoneRange := rfl
@[simp] theorem runningStatusOpen_slots : (m.runningStatusOpen b).slots =
    (m.slots.write (slotAddr m.wr 0) m.runningStatus).write (slotAddr m.wr 1) b := rfl

@[simp] theorem updateReady_runningStatus : (m.updateReady g).runningStatus = m.runningStatus := by unfold Mfe.updateReady; split <;> rfl
@[simp] theorem updateReady_expectedLen : (m.updateReady g).expectedLen = m.expectedLen := by unfold Mfe.updateReady; split <;> rfl
@[simp] theorem updateReady_dataIdx : (m.updateReady g).dataIdx = m.dataIdx := by unfold Mfe.updateReady; split <;> rfl
@[simp] theorem updateReady_wr : (m.updateReady g).wr = m.wr := by unfold Mfe.updateReady; split <;> rfl
@[simp] theorem updateReady_rd : (m.updateReady g).rd = m.rd := by unfold Mfe.updateReady; split <;> rfl
@[simp] theorem updateReady_semitoneRange : (m.updateReady g).semitoneRange = m.semitoneRange := by unfold Mfe.updateReady; split <;> rfl
@[simp] theorem updateReady_slots : (m.updateReady g).slots = m.slots := by unfold Mfe.updateReady; split <;> rfl
theorem updateReady_rdy : (m.updateReady g).rdy = if g = true ∧ m.expectedLen ≤ m.dataIdx then m.wr else m.rdy := by
  unfold Mfe.updateReady; split <;> rfl

/-- A data byte either fills the next position of the message in flight or opens a slot under running status (40_decoder.md R147). -/
theorem dataStep_cases :
    (∃ idx : Fin 3, idx.val = m.dataIdx.val + 1 ∧ idx ≤ m.expectedLen ∧
      m.dataStep b = { m.writeSlot (cursorPrev m.wr) idx b with dataIdx := idx }) ∨
    (m.expectedLen ≤ m.dataIdx ∧ m.dataStep b = m.runningStatusOpen b) := by
  by_cases h : m.dataIdx.val + 1 ≤ m.expectedLen.val
  · exact .inl ⟨⟨m.dataIdx.val + 1, by omega⟩, rfl, h, by simp [Mfe.dataStep, h]⟩
  · exact .inr ⟨by simp only [Fin.le_def]; omega, by simp [Mfe.dataStep, h]⟩

/-- `PROCESS_BYTE` is one of the two steps, chosen by bit 7 alone (R120). -/
theorem processByte_cases :
    (isStatus b = true ∧ m.processByte g b = m.receiveStatus g b (len b)) ∨
    (isStatus b = false ∧ m.processByte g b = m.receiveData g b) := by
  unfold Mfe.processByte
  cases isStatus b <;> simp

end Sys2Proof.Laws
end

