-- ==== Sys2Proof/Laws/Step.lean ====
section
/-! SUPPORT. What a step can do, said once, and running several steps. -/

namespace Sys2Proof.Laws

open Sys2Proof.Machine Sys2Proof.Safety

@[simp] theorem runSteps_zero (s : State) : runSteps 0 s = .next s := rfl

theorem runSteps_next {s t : State} (k : Nat) (h : step s = .next t) : runSteps (k + 1) s = runSteps k t := by
  simp [runSteps, h]

/-- All a step that goes on can have done: it idled, or it ran the instruction of the first word waiting. -/
theorem step_next_cases {s t : State} (h : step s = .next t) :
    (s.inbox = [] ∧ t = s) ∨
    ∃ p rest i, s.inbox = p :: rest ∧ decode p = .ok i ∧ exec i { s with inbox := rest } = .next t := by
  unfold step stepInbox at h
  split at h
  · next e => injection h with h; exact .inl ⟨e, h.symm⟩
  · next p rest e =>
    unfold runWord at h
    split at h
    · next i hd => exact .inr ⟨p, rest, i, e, hd, h⟩
    · cases h

/-- No instruction takes or puts a word. -/
theorem exec_inbox {i : Instr} {s t : State} (h : exec i s = .next t) : t.inbox = s.inbox := by
  cases i <;> (injection h with h; subst h; rfl)

/-- Every instruction adds its results, if any, after the results given before it. -/
theorem exec_outputs {i : Instr} {s t : State} (h : exec i s = .next t) : ∃ rs, t.outputs = s.outputs ++ rs := by
  cases i <;> (injection h with h; subst h; first | exact ⟨_, rfl⟩ | exact ⟨[], (List.append_nil _).symm⟩)

end Sys2Proof.Laws
end

