-- ==== Sys2Proof/Tests/Slice0.lean ====
section
/-! SUPPORT. Tests: words written out from the spec's encodings, one-step vectors of 95_test_vectors.md at a small buffer and over the rational
numbers with a turn of length 1 (Sawtooth and Square depend on `phase / 2π` alone), and a witness for every statement with hypotheses. -/

namespace Sys2Proof.Tests

open Sys2Proof.Machine Sys2Proof.Safety

/-! ### Decoding: one word per row of the opcode table, written out bit by bit (30_encoding.md R91 to R94, R102, R103) -/

theorem test_decode_noteOff : decode (.stream 0b10000101) = .ok (.noteOff 5) := by decide
theorem test_decode_noteOn : decode (.stream 0b10010101) = .ok (.noteOn 5) := by decide
theorem test_decode_polyAt : decode (.stream 0b10100101) = .ok (.polyAt 5) := by decide
theorem test_decode_ctrlChg : decode (.stream 0b10110101) = .ok (.ctrlChg 5) := by decide
theorem test_decode_progChg : decode (.stream 0b11000101) = .ok (.progChg 5) := by decide
theorem test_decode_chanAt : decode (.stream 0b11010101) = .ok (.chanAt 5) := by decide
theorem test_decode_pitchBend : decode (.stream 0b11100101) = .ok (.pitchBend 5) := by decide
theorem test_decode_sysF0 : decode (.stream 0b11110000) = .ok .sysF0 := by decide
theorem test_decode_timeCode : decode (.stream 0b11110001) = .ok .timeCode := by decide
theorem test_decode_songPos : decode (.stream 0b11110010) = .ok .songPos := by decide
theorem test_decode_songSel : decode (.stream 0b11110011) = .ok .songSel := by decide
theorem test_decode_sysF4 : decode (.stream 0b11110100) = .ok .sysF4 := by decide
theorem test_decode_sysF5 : decode (.stream 0b11110101) = .ok .sysF5 := by decide
theorem test_decode_tuneReq : decode (.stream 0b11110110) = .ok .tuneReq := by decide
theorem test_decode_eox : decode (.stream 0b11110111) = .ok .eox := by decide
theorem test_decode_clock : decode (.stream 0b11111000) = .ok .clock := by decide
theorem test_decode_sysF9 : decode (.stream 0b11111001) = .ok .sysF9 := by decide
theorem test_decode_start : decode (.stream 0b11111010) = .ok .start := by decide
theorem test_decode_continueMsg : decode (.stream 0b11111011) = .ok .continueMsg := by decide
theorem test_decode_stop : decode (.stream 0b11111100) = .ok .stop := by decide
theorem test_decode_sysFD : decode (.stream 0b11111101) = .ok .sysFD := by decide
theorem test_decode_actSense : decode (.stream 0b11111110) = .ok .actSense := by decide
theorem test_decode_sysReset : decode (.stream 0b11111111) = .ok .sysReset := by decide
theorem test_decode_data : decode (.stream 0b01000101) = .ok (.data 0b1000101) := by decide
theorem test_decode_nop : decode (.command 0b0000 0) = .ok .nop := by decide
theorem test_decode_processByte : decode (.command 0b0001 0x9C) = .ok (.processByte 0x9C) := by decide
theorem test_decode_dispatch : decode (.command 0b0010 0) = .ok .dispatch := by decide
theorem test_decode_setSemitones : decode (.command 0b0011 0x80000002) = .ok (.setSemitones 0x80000002) := by decide
theorem test_decode_getSemitones : decode (.command 0b0100 0) = .ok .getSemitones := by decide
theorem test_decode_reserved5 : decode (.command 0b0101 0) = .ok .reserved5 := by decide
theorem test_decode_reserved6 : decode (.command 0b0110 0) = .ok .reserved6 := by decide
theorem test_decode_reserved7 : decode (.command 0b0111 0) = .ok .reserved7 := by decide
theorem test_decode_nextSample : decode (.command 0b1000 0) = .ok .nextSample := by decide
theorem test_decode_setFrequency : decode (.command 0b1001 440) = .ok (.setFrequency ⟨440⟩) := by decide
theorem test_decode_setMode : decode (.command 0b1010 2) = .ok (.setMode .square) := by decide
theorem test_decode_getMode : decode (.command 0b1011 0) = .ok .getMode := by decide
theorem test_decode_reservedC : decode (.command 0b1100 0) = .ok .reservedC := by decide
theorem test_decode_reservedD : decode (.command 0b1101 0) = .ok .reservedD := by decide
theorem test_decode_reservedE : decode (.command 0b1110 0) = .ok .reservedE := by decide
theorem test_decode_reset : decode (.command 0b1111 0) = .ok .reset := by decide

/-- The opcode table's own numbering: a stream row by its byte, a command row by its code. -/
theorem test_table_words : decodeTableWord 8 0xF0 = some .sysF0 ∧ decodeTableWord 8 0x7F = some (.data 0x7F) ∧
    decodeTableWord 8 0x2 = some .dispatch ∧ decodeTableWord 4 0x9 = some (.setFrequency ⟨0⟩) ∧
    decodeTableWord 8 0x100 = none ∧ decodeTableWord 16 0x90 = none := by decide

/-- A placed word is the one the next step runs. -/
theorem test_placed_word_runs : step (State.reset.withFetchWord 8 0x93) = exec (.noteOn 3) State.reset := rfl

/-! ### Well-formedness: each check refuses an ill-formed word -/

theorem test_refuses_operand_of_nop : (Packet.command 0x0 1).wellFormed = false := by decide
theorem test_refuses_wide_byte : (Packet.command 0x1 256).wellFormed = false := by decide
theorem test_refuses_wide_semitones : (Packet.command 0x3 0x100000000).wellFormed = false := by decide
theorem test_refuses_wide_mode : (Packet.command 0xA 4).wellFormed = false := by decide
theorem test_accepts_widest_operands : (Packet.command 0x1 255).wellFormed = true ∧ (Packet.command 0x3 0xFFFFFFFF).wellFormed = true ∧
    (Packet.command 0xA 3).wellFormed = true ∧ (Packet.command 0x9 0xFFFFFFFFFF).wellFormed = true := by decide
theorem test_decode_names_the_reason : decode (.command 0xA 4) = .error (.operandTooWide 0xA) := by decide

/-! ### The decoder (95_test_vectors.md 2.1), `N = 4` -/

/-- MFE after reset with four slots. -/
def four : Mfe 4 := Mfe.reset 4 (by decide)

/-- R120's example: `PROCESS_BYTE 0x90` from reset. -/
theorem test_noteOn_from_reset : (four.processByte false 0x90).runningStatus = 0x90 ∧ (four.processByte false 0x90).expectedLen = 2 ∧
    (four.processByte false 0x90).dataIdx = 0 ∧ (four.processByte false 0x90).slot 0 = ⟨0x90, 0, 0⟩ ∧
    (four.processByte false 0x90).wr = 1 := by decide

/-- After `[0x90, 60, 100]` (40_decoder.md R148, third row). -/
def afterNoteOn : Mfe 4 :=
  { four with runningStatus := 0x90, expectedLen := 2, dataIdx := 2, wr := 1, slots := ⟨[(0, 0x90), (1, 60), (2, 100)]⟩ }

/-- R147's example: then `PROCESS_BYTE 64` opens a running-status slot. -/
theorem test_data_opens_slot : (afterNoteOn.processByte false 64).slot 1 = ⟨0x90, 0x40, 0⟩ ∧ (afterNoteOn.processByte false 64).wr = 2 ∧
    (afterNoteOn.processByte false 64).dataIdx = 1 ∧ (afterNoteOn.processByte false 64).slot 0 = ⟨0x90, 0x3C, 0x64⟩ := by decide

/-- V-DEC-4: with `wr = 0` the data byte goes to slot `(0 − 1) mod 4 = 3`. -/
theorem test_data_wraps_back : ((({ four with runningStatus := 0x90, expectedLen := 2, slots := ⟨[(9, 0x90)]⟩ } : Mfe 4).processByte false 60).slot 3) =
    ⟨0x90, 0x3C, 0⟩ := by decide

/-- V-DEC-8: a data byte before any status byte. -/
theorem test_data_before_status : (four.processByte false 0x45).slot 0 = ⟨0x00, 0x45, 0x00⟩ ∧ (four.processByte false 0x45).dataIdx = 1 := by decide

/-- V-DEC-3: the write cursor wraps from 3 to 0. -/
theorem test_write_cursor_wraps : (({ four with wr := 3 } : Mfe 4).processByte false 0xFA).wr = 0 := by decide

/-- V-DEC-11: the bytes a message does not write stay. -/
theorem test_status_keeps_stale_bytes : (({ afterNoteOn with wr := 0 } : Mfe 4).processByte false 0xC0).slot 0 = ⟨0xC0, 0x3C, 0x64⟩ := by decide

/-- R152: a real-time byte replaces the running status and abandons the message in flight. -/
theorem test_clock_replaces_running_status : (({ afterNoteOn with dataIdx := 1 } : Mfe 4).processByte false 0xF8).runningStatus = 0xF8 ∧
    (({ afterNoteOn with dataIdx := 1 } : Mfe 4).processByte false 0xF8).expectedLen = 0 := by decide

/-- P4, `READY_GATING = 1`: the ready cursor waits for the last data byte. -/
theorem test_ready_cursor_waits : (four.processByte true 0x90).rdy = 0 ∧ (four.processByte true 0xF8).rdy = 1 ∧
    (({ afterNoteOn with dataIdx := 1 } : Mfe 4).processByte true 100).rdy = 1 := by decide

/-- V-DEC-1's column of lengths. -/
theorem test_lengths : len 0x8F = 2 ∧ len 0xB0 = 1 ∧ len 0xF1 = 1 ∧ len 0xF2 = 2 ∧ len 0xF3 = 1 ∧ len 0xFF = 0 ∧ len 0x7F = 0 := by decide

/-! ### The dispatcher (2.2) -/

/-- The rational numbers with a turn of length 1; `pow2` leaves its argument, so that a factor shows its exponent; `exp` and `sin` give no number
the vectors use. -/
def turns : NumSystem ℚ where
  ofNat k := k
  half := 1 / 2
  pi := 1 / 2
  twoPi := 1
  add := (· + ·)
  sub := (· - ·)
  mul := (· * ·)
  div := (· / ·)
  neg x := -x
  abs x := |x|
  sin x := x
  exp _ := 1 / 4
  pow2 x := x
  mod1 x := x - ⌊x⌋
  lt x y := decide (x < y)

/-- S2: the two Note-Ons of `[0x90, 60, 100, 64, 90]`. -/
theorem test_dispatch_two_notes :
    (({ afterNoteOn with wr := 2, slots := ⟨[(0, 0x90), (1, 60), (2, 100), (3, 0x90), (4, 64), (5, 90)]⟩ } : Mfe 4).dispatch turns false).2 =
      [.raw 0x90 60 100, .key .pressed 60 100, .raw 0x90 64 90, .key .pressed 64 90] := by decide +kernel

/-- R72, P3: with `rd = wr` nothing is delivered, though four messages lie in the slots. -/
theorem test_dispatch_lapped : (({ afterNoteOn with wr := 0 } : Mfe 4).dispatch turns false).2 = [] := by decide +kernel

/-- V-DEC-3: the read cursor wraps 3 → 0 → 1. -/
theorem test_read_cursor_wraps : (({ four with rd := 3, wr := 1, slots := ⟨[(0, 0xFC), (9, 0xFA)]⟩ } : Mfe 4).dispatch turns false) =
    ({ four with rd := 1, wr := 1, slots := ⟨[(0, 0xFC), (9, 0xFA)]⟩ }, [.raw 0xFA 0 0, .raw 0xFC 0 0]) := by decide +kernel

/-- V-DSP-3: the high nibble alone classifies; velocity 0 is Pressed. -/
theorem test_classify : messageEvents turns 1 ⟨0x8F, 60, 64⟩ = [.raw 0x8F 60 64, .key .released 60 64] ∧
    messageEvents turns 1 ⟨0x90, 60, 0⟩ = [.raw 0x90 60 0, .key .pressed 60 0] ∧
    messageEvents turns 1 ⟨0xA0, 60, 40⟩ = [.raw 0xA0 60 40] ∧ messageEvents turns 1 ⟨0, 1, 2⟩ = [.raw 0 1 2] := by decide +kernel

/-- R104's codes, and `messageEvents` of a bend: `RAW` then `PITCH`. -/
theorem test_event_codes : ((messageEvents turns 1 ⟨0xE0, 0, 64⟩).map Event.tag) = [0, 2] ∧
    ((messageEvents turns 1 ⟨0x90, 0, 64⟩).map Event.tag) = [0, 1] ∧ KeyState.pressed.code = 1 ∧ KeyState.released.code = 0 := by decide +kernel

/-- V-DSP-2: the exponents at the centre (1/16383 of the range), and at the bytes `E5 01 40` (8193). -/
theorem test_bend_exponents : bendFactor turns 2 ⟨0xE0, 0x00, 0x40⟩ = 2 / (12 * 16383) ∧ bendFactor turns 1 ⟨0xE5, 0x01, 0x40⟩ = 3 / (12 * 16383) ∧
    bendFactor turns 12 ⟨0xE0, 0x7F, 0x7F⟩ = 1 ∧ bendFactor turns 12 ⟨0xE0, 0, 0⟩ = -1 := by decide +kernel

/-! ### The oscillator (2.3), phases in turns -/

/-- An oscillator at a phase and an increment given in turns. -/
def at_ (m : Mode) (u du : ℚ) : Osc ℚ := { mode := m, phase := u, phaseInc := du, a0 := 1 / 3, b1 := 2 / 3, stageA := 0, stageB := 0 }

/-- V-OSC-10: the table of `Blep`, and V-OSC-9's `Blep(1/2, 3/4) = −1/9`, where both tests hold and the first wins. -/
theorem test_blep : blep turns 0 (1 / 8) = -1 ∧ blep turns (1 / 16) (1 / 8) = -1 / 4 ∧ blep turns (1 / 8) (1 / 8) = 0 ∧
    blep turns (7 / 8) (1 / 8) = 0 ∧ blep turns (15 / 16) (1 / 8) = 1 / 4 ∧ blep turns 1 (1 / 8) = 1 ∧ blep turns 1 0 = 0 ∧
    blep turns (1 / 2) (3 / 4) = -1 / 9 := by decide +kernel

/-- V-OSC-3 at `u = 15/16` and `u = 2/16`; V-OSC-6 at `u = −1`. -/
theorem test_sawtooth : ((at_ .sawtooth (15 / 16) (3 / 16)).nextSample turns).2 = 31 / 72 ∧
    ((at_ .sawtooth (2 / 16) (3 / 16)).nextSample turns).2 = -23 / 36 ∧
    ((at_ .sawtooth (-1) (-1 / 8)).nextSample turns).2 = -4 := by decide +kernel

/-- V-OSC-4 at `u = 6/16` and `u = 9/16`. -/
theorem test_square : ((at_ .square (6 / 16) (3 / 16)).nextSample turns).2 = 8 / 9 ∧
    ((at_ .square (9 / 16) (3 / 16)).nextSample turns).2 = -5 / 9 := by decide +kernel

/-- V-OSC-5: the second Triangle sample is `A0²`, the second stage being fed the new `stageA`. -/
theorem test_triangle : ((at_ .triangle (1 / 8) (1 / 8)).nextSample turns).2 = 1 / 3 * (1 / 3) ∧
    ((at_ .triangle (1 / 8) (1 / 8)).nextSample turns).1.stageA = 1 / 3 := by decide +kernel

/-- V-OSC-1: a phase of exactly one turn is not wrapped; 9/8 is, to 1/8; −9/8 to −1/8. V-OSC-9: an increment of 5/4 leaves 5/4 after the wrap. -/
theorem test_phase_wrap : ((at_ .sine (7 / 8) (1 / 8)).nextSample turns).1.phase = 1 ∧
    ((at_ .sine 1 (1 / 8)).nextSample turns).1.phase = 1 / 8 ∧ ((at_ .sine (-1) (-1 / 8)).nextSample turns).1.phase = -1 / 8 ∧
    ((at_ .sine 1 (5 / 4)).nextSample turns).1.phase = 5 / 4 := by decide +kernel

/-- R210: the increment, and `A0 = 1 − B1`; `hz` and `−hz` have opposite increments and the same coefficients. -/
theorem test_setFrequency : ((at_ .sine 0 0).setFrequency turns 8 1).phaseInc = 1 / 8 ∧ ((at_ .sine 0 0).setFrequency turns 8 (-1)).phaseInc = -1 / 8 ∧
    ((at_ .sine 0 0).setFrequency turns 8 1).a0 = 3 / 4 ∧ ((at_ .sine 0 0).setFrequency turns 8 1).b1 = 1 / 4 := by decide +kernel

/-! ### Witnesses: the hypotheses of each statement can be met -/

/-- Reset, in a mode. -/
def inMode (m : Mode) : State := { State.reset with osc := { State.reset.osc with mode := m } }

/-- Reset, with a message in flight. -/
def inFlight (l i : Fin 3) : State := { State.reset with mfe := { State.reset.mfe with expectedLen := l, dataIdx := i } }

/-- Reset, with words waiting. -/
def waiting (ws : List Packet) : State := { State.reset with inbox := ws }

theorem witness_status_byte : (0x80 : Byte).msb = true ∧ (0xFF : Byte).msb = true := by decide
theorem witness_data_in_flight : (inFlight 2 1).mfe.dataIdx < (inFlight 2 1).mfe.expectedLen ∧
    (inFlight 1 0).mfe.dataIdx < (inFlight 1 0).mfe.expectedLen := by decide
theorem witness_data_complete : (inFlight 2 2).mfe.expectedLen ≤ (inFlight 2 2).mfe.dataIdx ∧
    (inFlight 0 0).mfe.expectedLen ≤ (inFlight 0 0).mfe.dataIdx := by decide

theorem witness_complete_messages :
    (∀ m ∈ [((0x90 : Byte), [(60 : Byte), 100]), (0xF8, [])], Complete m) ∧
    (waiting [.stream 0x90, .stream 60, .stream 100, .stream 0xF8, .command 0x2 0]).mfe.rd =
      (waiting [.stream 0x90, .stream 60, .stream 100, .stream 0xF8, .command 0x2 0]).mfe.wr ∧
    (Config.readyGating = true → (waiting []).mfe.rdy = (waiting []).mfe.wr) ∧
    (waiting [.stream 0x90, .stream 60, .stream 100, .stream 0xF8, .command 0x2 0]).inbox =
      (([((0x90 : Byte), [(60 : Byte), 100]), (0xF8, [])].flatMap messageBytes).map Packet.stream ++ [Packet.command 0x2 0]) := by
  refine ⟨?_, rfl, fun _ => rfl, rfl⟩
  unfold Complete; decide

/-- Messages of two statuses, compressed messages between them, and a drain in the middle of the compressed ones. -/
def mixed : List Traffic := [.explicit 0x90 [60, 100], .compressed [64, 90], .drain, .compressed [67, 80], .explicit 0xF8 [], .explicit 0xC1 [5], .drain]

theorem mixed_wellFormed (r : Option Byte) : WellFormedTraffic r mixed := by
  simp only [mixed, WellFormedTraffic, Complete]; decide

/-- What the drains are to deliver with four slots: the running status goes with each compressed message. -/
theorem test_deliveries : deliveries 4 0x00 [] mixed =
    [[(0x90, [60, 100]), (0x90, [64, 90])], [(0x90, [67, 80]), (0xF8, []), (0xC1, [5])]] := by decide

theorem witness_running_status : WellFormedTraffic (resumable (waiting (mixed.flatMap Traffic.words)).mfe) mixed ∧
    (waiting (mixed.flatMap Traffic.words)).mfe.rd = (waiting (mixed.flatMap Traffic.words)).mfe.wr ∧
    (Config.readyGating = true → (waiting (mixed.flatMap Traffic.words)).mfe.rdy = (waiting (mixed.flatMap Traffic.words)).mfe.wr) ∧
    (waiting (mixed.flatMap Traffic.words)).inbox = mixed.flatMap Traffic.words := ⟨mixed_wellFormed _, rfl, fun _ => rfl, rfl⟩

/-- Traffic that begins with a compressed message, from a front end that holds a complete one. -/
theorem witness_both_gatings : WellFormedTraffic (resumable afterNoteOn) (.compressed [64, 90] :: mixed) := by
  have h : resumable afterNoteOn = some 0x90 := by decide
  rw [h]
  exact ⟨by decide, by unfold Complete; decide, mixed_wellFormed _⟩

theorem witness_empty_buffer : State.reset.mfe.isEmpty Config.readyGating = true := by
  unfold Mfe.isEmpty Mfe.limit; cases Config.readyGating <;> rfl

theorem witness_modes : (inMode .sine).osc.mode = .sine ∧ (inMode .sawtooth).osc.mode = .sawtooth ∧ (inMode .square).osc.mode = .square ∧
    (inMode .triangle).osc.mode = .triangle := ⟨rfl, rfl, rfl, rfl⟩

/-- Both ends of the bend range. -/
theorem witness_bend_ends : (Slot.mk 0xE0 0 0).value14.toNat = 0 ∧ (Slot.mk 0xE0 0x7F 0x7F).value14.toNat = 16383 := by decide

/-- Each clause of the closed forms at an edge of its range: `t = 0`; `t = 1`; `t = dt` and `t = 1 − dt`. -/
theorem witness_blep_clauses : (0 : ℝ) < 1 / 4 ∧ (0 : ℝ) < 1 / 4 ∧ ((1 / 4 : ℝ) ≤ 1 ∧ (1 : ℝ) - 1 / 4 < 1) ∧
    ((1 / 4 : ℝ) ≤ 1 / 4 ∧ (1 / 4 : ℝ) ≤ 1 - 1 / 4) ∧ ((1 / 4 : ℝ) ≤ 3 / 4 ∧ (3 / 4 : ℝ) ≤ 1 - 1 / 4) := by norm_num

/-- An oscillator over the reals at rest at a phase, with an increment. -/
noncomputable def real (m : Mode) (p i : ℝ) : Osc ℝ := { mode := m, phase := p, phaseInc := i, a0 := 0, b1 := 1, stageA := 0, stageB := 0 }

theorem witness_sample_rate : (0 : ℝ) < 8 ∧ |(-8 : ℝ)| ≤ 8 := by norm_num

theorem witness_real_invariant : RealOscInv (real .square (2 * Real.pi) (-(2 * Real.pi))) := by
  have h : (0 : ℝ) ≤ 2 * Real.pi := by positivity
  exact ⟨by simp [real], by simp [real], by simp [real], by simp [real, abs_of_nonneg Real.pi_pos.le], by simp [real, abs_of_nonneg Real.pi_pos.le]⟩

theorem witness_sine : (real .sine 0 1).mode = .sine ∧ (real .sine 0 1).phase = 0 := ⟨rfl, rfl⟩

theorem witness_sawtooth_wrap : (real .sawtooth (2 * Real.pi) Real.pi).mode = .sawtooth ∧ 0 < (real .sawtooth (2 * Real.pi) Real.pi).phaseInc ∧
    (real .sawtooth (2 * Real.pi) Real.pi).phaseInc ≤ Real.pi ∧
    2 * Real.pi - (real .sawtooth (2 * Real.pi) Real.pi).phaseInc < (real .sawtooth (2 * Real.pi) Real.pi).phase ∧
    (real .sawtooth (2 * Real.pi) Real.pi).phase ≤ 2 * Real.pi :=
  ⟨rfl, Real.pi_pos, le_refl _, by simp [real, Real.pi_pos], le_refl _⟩

theorem witness_unit_range : UnitRange (real .triangle (2 * Real.pi) (Real.pi / 2)) := by
  have h := Real.pi_pos
  exact ⟨by simp [real], by simp [real], by simp [real], by simp [real, h.le], le_refl _, by simp only [real]; positivity, le_refl _,
    by simp [real], by simp [real]⟩

theorem witness_negative_phase : -(2 * Real.pi) ≤ (real .square (-(2 * Real.pi)) (-1)).phase ∧ (real .square (-(2 * Real.pi)) (-1)).phase < 0 :=
  ⟨le_refl _, by simp [real, Real.pi_pos]⟩

theorem witness_zero_frequency : (real .triangle (2 * Real.pi) 0).phaseInc = 0 ∧ |(real .triangle (2 * Real.pi) 0).phase| ≤ 2 * Real.pi ∧
    (real .triangle (2 * Real.pi) 0).a0 = 0 ∧ (real .triangle (2 * Real.pi) 0).b1 = 1 :=
  ⟨rfl, by simp [real, abs_of_nonneg Real.pi_pos.le], rfl, rfl⟩

theorem witness_word_decodes : decode (.command 0x1 0x90) = .ok (.processByte 0x90) := by decide

theorem witness_step_runs : (waiting [.stream 0x93]).inbox = .stream 0x93 :: [] ∧ decode (.stream 0x93) = .ok (.noteOn 3) ∧
    (waiting []).inbox = [] := ⟨rfl, by decide, rfl⟩

theorem witness_malformed : (waiting [.command 0x1 256]).inbox = .command 0x1 256 :: [] ∧ (Packet.command 0x1 256).wellFormed = false :=
  ⟨rfl, by decide⟩

theorem witness_ready : Ready (waiting [.stream 0x90, .command 0x2 0]) := by unfold Ready; decide

/-- A step that does something from a state with the invariant. -/
theorem witness_invariant : MachineInv (waiting [.stream 0x90]) ∧ ∃ t, step (waiting [.stream 0x90]) = .next t :=
  ⟨⟨⟨.inl rfl, rfl, .inl (by decide), Laws.Memory.empty_wf, fun _ h => absurd h (by simp [waiting, State.reset, Mfe.reset]), fun _ => .inl rfl,
    fun _ => (by decide : isStatus (0x00 : Byte) = false), fun _ => (by decide : isStatus (0x00 : Byte) = false), fun _ _ => rfl, fun _ => rfl⟩,
    .inr ⟨rfl, rfl⟩⟩, _, rfl⟩

theorem witness_sub_blocks : isMfe .dispatch = true ∧ isOsc .nextSample = true ∧ (inMode .square).mfe = (inMode .sine).mfe ∧
    (inFlight 2 1).osc = (inFlight 0 0).osc ∧ ∃ t u t' u', exec .dispatch State.reset = .next t ∧ exec .nextSample t = .next u ∧
      exec .nextSample State.reset = .next t' ∧ exec .dispatch t' = .next u' :=
  ⟨rfl, rfl, rfl, rfl, _, _, _, _, rfl, rfl, rfl, rfl⟩

end Sys2Proof.Tests
end

section
/-! The bend value of a slot: two seven-bit data bytes side by side (30_encoding.md R97, R100). -/

namespace Sys2Proof.Proofs

open Sys2Proof.Machine

/-- The significant bits of a data byte as a number (R97). -/
@[simp] theorem sevenBits_toNat (v : Byte) : (sevenBits v).toNat = v.toNat % 128 := by
  rw [sevenBits, BitVec.extractLsb'_toNat, Nat.shiftRight_zero]

/-- The two halves of the bend value occupy disjoint bits, so its `|||` is concatenation, position 2 on the left (R62, R100). -/
theorem value14_eq_append (m : Slot) : m.value14 = sevenBits m.b2 ++ sevenBits m.b1 := by
  calc m.value14
    _ = (sevenBits m.b2).setWidth 14 <<< 7 ||| (sevenBits m.b1).setWidth 14 := BitVec.or_comm ..
    _ = (sevenBits m.b2 ++ sevenBits m.b1).setWidth 14 := BitVec.setWidth_append_eq_shiftLeft_setWidth_or.symm
    _ = sevenBits m.b2 ++ sevenBits m.b1 := BitVec.setWidth_eq _

/-- Concatenation is place value: the left part counts in units of two to the width of the right part. -/
theorem toNat_append_eq_add {v w : Nat} (hi : BitVec v) (lo : BitVec w) :
    (hi ++ lo).toNat = lo.toNat + 2 ^ w * hi.toNat := by
  rw [BitVec.toNat_append, ← Nat.shiftLeft_add_eq_or_of_lt lo.isLt, Nat.shiftLeft_eq, Nat.mul_comm, Nat.add_comm]

/-- Settles O18: the bend value is a concatenation, read by place value. -/
theorem bendValueIsLsbFirst : Obligations.BendValueIsLsbFirst := by
  intro m
  calc m.value14.toNat
    _ = (sevenBits m.b2 ++ sevenBits m.b1).toNat := by rw [value14_eq_append]
    _ = (sevenBits m.b1).toNat + 128 * (sevenBits m.b2).toNat := toNat_append_eq_add ..
    _ = m.b1.toNat % 128 + 128 * (m.b2.toNat % 128) := by rw [sevenBits_toNat, sevenBits_toNat]

end Sys2Proof.Proofs
end

section
/-! Receiving a status byte: `StatusStep` on the machine (40_decoder.md R120, R121). -/

namespace Sys2Proof.Proofs

open Sys2Proof.Machine Sys2Proof.Safety Sys2Proof.Laws

/-- The memory after a status byte, at every address: position 0 of the slot at the write cursor holds it (R60, R121). -/
theorem receiveStatus_read {n : Nat} (g : Bool) (m : Mfe n) (b : Byte) (l : Fin 3) (a : Nat) :
    (m.receiveStatus g b l).slots.read a = if a = 3 * m.wr.val then b else m.slots.read a := by
  have hslots : (m.receiveStatus g b l).slots = m.slots.write (slotAddr m.wr 0) b := by
    rw [Mfe.receiveStatus, updateReady_slots, statusStep_slots]
  have haddr : slotAddr m.wr 0 = 3 * m.wr.val := Nat.add_zero _
  rw [hslots, Memory.read_write, haddr]

/-- Without the option the ready cursor is not written (10_state.md R29). -/
theorem updateReady_rdy_of_not_gating {n : Nat} {g : Bool} (m : Mfe n) (hg : g = false) : (m.updateReady g).rdy = m.rdy := by
  simp [updateReady_rdy, hg]

/-- The registers of other commands, OSC and the interface do not see a status byte arrive. -/
theorem receiveStatus_decoderFrame (b : Byte) (l : Fin 3) (s : State) :
    DecoderFrame s (s.withMfe (s.mfe.receiveStatus Config.readyGating b l)) :=
  ⟨updateReady_rdy_of_not_gating (s.mfe.statusStep b l), updateReady_rd .., updateReady_semitoneRange .., rfl, rfl, rfl⟩

/-- `StatusStep` on the machine, for any byte and any length: the common effect of every status class. -/
theorem receiveStatus_opensSlot (b : Byte) (l : Fin 3) (s : State) : OpensSlot s b l (receiveStatus b l s) :=
  ⟨s.withMfe (s.mfe.receiveStatus Config.readyGating b l), rfl,
    updateReady_runningStatus .., updateReady_expectedLen .., updateReady_dataIdx ..,
    congrArg Fin.val (updateReady_wr ..), receiveStatus_read _ s.mfe b l, receiveStatus_decoderFrame b l s⟩

/-- `PROCESS_BYTE` always completes, and moves MFE alone (R120). -/
theorem exec_processByte (b : Byte) (s : State) :
    exec (.processByte b) s = .next (s.withMfe (s.mfe.processByte Config.readyGating b)) := rfl

/-- `PROCESS_BYTE` hands a byte with bit 7 set to the status step, with the length of the table (R120). -/
theorem exec_processByte_of_status {b : Byte} (s : State) (hb : b.msb = true) :
    exec (.processByte b) s = receiveStatus b (len b) s := by
  rw [exec_processByte, receiveStatus]
  rcases processByte_cases Config.readyGating s.mfe b with ⟨_, hstep⟩ | ⟨hdata, _⟩
  · rw [hstep]
  · exact absurd (hb.symm.trans hdata) Bool.noConfusion

/-- Settles O6: bit 7 chooses the status step, which opens a slot whatever the byte and its length. -/
theorem processByteOfStatusOpensSlot : Obligations.ProcessByteOfStatusOpensSlot := by
  intro b s hb
  rw [exec_processByte_of_status s hb]
  exact receiveStatus_opensSlot b (len b) s

end Sys2Proof.Proofs
end

section
/-! Classifying a message by the high nibble of its position 0 (41_dispatcher.md R173 to R177). -/

namespace Sys2Proof.Proofs

open Sys2Proof.Machine

/-- The high nibble as a number (R92). -/
@[simp] theorem highNibble_toNat (b : Byte) : (highNibble b).toNat = b.toNat / 16 := by
  have hlt : b.toNat / 16 < 16 := Nat.div_lt_of_lt_mul b.isLt
  rw [highNibble, BitVec.extractLsb'_toNat, Nat.shiftRight_eq_div_pow]
  exact Nat.mod_eq_of_lt hlt

theorem highNibble_eq_iff (b : Byte) (c : BitVec 4) : highNibble b = c ↔ b.toNat / 16 = c.toNat := by
  rw [← BitVec.toNat_inj, highNibble_toNat]

/-! The three tests of R40 read the high nibble of position 0 and nothing else. -/

theorem isPitchBend_iff (m : Slot) : m.isPitchBend = true ↔ m.b0.toNat / 16 = 0xE :=
  decide_eq_true_iff.trans (highNibble_eq_iff m.b0 0xE)

theorem isNoteOn_iff (m : Slot) : m.isNoteOn = true ↔ m.b0.toNat / 16 = 0x9 :=
  decide_eq_true_iff.trans (highNibble_eq_iff m.b0 0x9)

theorem isNoteOff_iff (m : Slot) : m.isNoteOff = true ↔ m.b0.toNat / 16 = 0x8 :=
  decide_eq_true_iff.trans (highNibble_eq_iff m.b0 0x8)

/-- The classified event of any message at all: the tests are tried in the order E, 9, 8 (R174 to R177). -/
theorem classify_eq_of_highNibble {α : Type} (M : NumSystem α) (semitones : BitVec 32) (m : Slot) :
    classify M semitones m =
      if m.b0.toNat / 16 = 0xE then [.pitch (bendFactor M semitones m)]
      else if m.b0.toNat / 16 = 0x9 then [.key .pressed m.note m.velocity]
      else if m.b0.toNat / 16 = 0x8 then [.key .released m.note m.velocity]
      else [] :=
  if_congr (isPitchBend_iff m) rfl
    (if_congr (isNoteOn_iff m) rfl
      (if_congr (isNoteOff_iff m) rfl rfl))

/-- A seven-bit value stored as a data byte is read back unchanged (R97). -/
@[simp] theorem sevenBits_setWidth (d : BitVec 7) : sevenBits (d.setWidth 8) = d := by
  have hfits : (d.setWidth 8).toNat = d.toNat := BitVec.toNat_setWidth_of_le (by decide)
  apply BitVec.eq_of_toNat_eq
  rw [sevenBits_toNat, hfits]
  exact Nat.mod_eq_of_lt d.isLt

/-- Settles O17: the high nibble selects the event, and a key event carries the data bytes as they were stored. -/
theorem messageClassifiedByHighNibble : Obligations.MessageClassifiedByHighNibble := by
  intro α M semitones b0 d1 d2
  have hnote : Slot.note ⟨b0, d1.setWidth 8, d2.setWidth 8⟩ = d1 := sevenBits_setWidth d1
  have hvelocity : Slot.velocity ⟨b0, d1.setWidth 8, d2.setWidth 8⟩ = d2 := sevenBits_setWidth d2
  rw [classify_eq_of_highNibble, hnote, hvelocity]

end Sys2Proof.Proofs
end

section
/-! The block never stops: every word of the interface decodes, every instruction answers a next state, and what is left
waiting are words of the interface again (60_exceptions.md R240, R244). -/

namespace Sys2Proof.Proofs

open Sys2Proof.Machine Sys2Proof.Safety Sys2Proof.Laws

/-- A word of the interface is an instruction: a stream byte always (R105), a command because its argument fits (R102, R106). -/
theorem decode_eq_ok_of_wellFormed {p : Packet} (hp : p.wellFormed = true) : ∃ i, decode p = .ok i := by
  cases p with
  | stream b => exact ⟨decodeByte b, rfl⟩
  | command op arg => exact ⟨decodeCommand op arg, if_pos hp⟩

/-- No instruction faults or is refused: the meaning of every class is a next state, whatever the operand and the state (R240). -/
theorem exec_continues (i : Instr) (s : State) : Continues (exec i s) := by
  cases i <;> exact ⟨_, rfl⟩

/-- With no word waiting the step idles (R255). -/
theorem step_of_inbox_nil {s : State} (hnone : s.inbox = []) : step s = .next s := by
  simp [step, stepInbox, hnone]

/-- With a word waiting the step runs the instruction it decodes to, with the word consumed (20_memory.md R76). -/
theorem step_of_inbox_cons {s : State} {p : Packet} {rest : List Packet} {i : Instr} (hword : s.inbox = p :: rest)
    (hdecode : decode p = .ok i) : step s = exec i (s.withInbox rest) := by
  simp [step, stepInbox, runWord, hword, hdecode]

/-- One step goes on when the word it takes is a word of the interface. -/
theorem step_continues {s : State} (hs : Ready s) : Continues (step s) := by
  cases hinbox : s.inbox with
  | nil => exact ⟨s, step_of_inbox_nil hinbox⟩
  | cons p rest =>
    have hp : p ∈ s.inbox := hinbox ▸ List.mem_cons_self
    obtain ⟨i, hdecode⟩ := decode_eq_ok_of_wellFormed (hs p hp)
    rw [step_of_inbox_cons hinbox hdecode]
    exact exec_continues i (s.withInbox rest)

/-- The words a step leaves waiting were waiting before it, since no instruction puts a word. -/
theorem step_keeps_ready {s t : State} (hs : Ready s) (hstep : step s = .next t) : Ready t := by
  rcases step_next_cases hstep with ⟨_, rfl⟩ | ⟨p, rest, i, hinbox, _, hexec⟩
  · exact hs
  · intro q hq
    have hrest : t.inbox = rest := exec_inbox hexec
    exact hs q (hinbox ▸ List.mem_cons_of_mem p (hrest ▸ hq))

/-- A run of any length goes on from every state of a set in which each step goes on and which no step leaves. -/
theorem runSteps_continues_of_invariant {P : State → Prop} (hgoes : ∀ {s}, P s → Continues (step s))
    (hkeeps : ∀ {s t}, P s → step s = .next t → P t) (k : Nat) {s : State} (hs : P s) : Continues (runSteps k s) := by
  induction k generalizing s with
  | zero => exact ⟨s, runSteps_zero s⟩
  | succ k ih =>
    obtain ⟨t, hstep⟩ := hgoes hs
    rw [runSteps_next k hstep]
    exact ih (hkeeps hs hstep)

/-- Settles O44: that the words waiting are words of the interface lets a step go on, and no step changes it. -/
theorem runsOfWordsNeverStop : Obligations.RunsOfWordsNeverStop := fun k _ hs =>
  runSteps_continues_of_invariant step_continues step_keeps_ready k hs

end Sys2Proof.Proofs
end

section
/-! Decoding and encoding undo each other (30_encoding.md R91 to R96, R102, R103): a stream byte is its two nibbles, and a command's argument
that fits is the operand. -/

namespace Sys2Proof.Proofs

open Sys2Proof.Machine Sys2Proof.Laws

/-- The low nibble as a number (R92). -/
@[simp] theorem lowNibble_toNat (b : Byte) : (lowNibble b).toNat = b.toNat % 16 := by
  rw [lowNibble, BitVec.extractLsb'_toNat, Nat.shiftRight_zero]

/-- A status byte by place value: the high nibble counts in sixteens (R92). -/
@[simp] theorem statusByte_toNat (hi lo : BitVec 4) : (statusByte hi lo).toNat = lo.toNat + 16 * hi.toNat :=
  toNat_append_eq_add hi lo

/-- Bit 7 of a data byte is clear, so the byte is its value (R91). -/
@[simp] theorem dataByte_toNat (value : BitVec 7) : (dataByte value).toNat = value.toNat :=
  (toNat_append_eq_add 0#1 value).trans (by simp)

@[simp] theorem highNibble_statusByte (hi lo : BitVec 4) : highNibble (statusByte hi lo) = hi := by
  apply BitVec.eq_of_toNat_eq
  rw [highNibble_toNat, statusByte_toNat]
  omega

@[simp] theorem lowNibble_statusByte (hi lo : BitVec 4) : lowNibble (statusByte hi lo) = lo := by
  apply BitVec.eq_of_toNat_eq
  rw [lowNibble_toNat, statusByte_toNat]
  omega

/-- A byte is the status byte of its own nibbles (R92). -/
theorem statusByte_nibbles (b : Byte) : statusByte (highNibble b) (lowNibble b) = b := by
  apply BitVec.eq_of_toNat_eq
  rw [statusByte_toNat, lowNibble_toNat, highNibble_toNat]
  omega

@[simp] theorem sevenBits_dataByte (value : BitVec 7) : sevenBits (dataByte value) = value := by
  apply BitVec.eq_of_toNat_eq
  rw [sevenBits_toNat, dataByte_toNat]
  omega

/-- A byte with bit 7 clear is the data byte of its low seven bits (R91). -/
theorem dataByte_sevenBits {b : Byte} (hb : b.toNat < 128) : dataByte (sevenBits b) = b := by
  apply BitVec.eq_of_toNat_eq
  rw [dataByte_toNat, sevenBits_toNat, Nat.mod_eq_of_lt hb]

/-- A byte with bit 7 clear is `DATA` of its low seven bits: no status class has a high nibble below 8 (R91, R93). -/
theorem decodeByte_of_lt {b : Byte} (hb : b.toNat < 128) : decodeByte b = .data (sevenBits b) := by
  have hhigh : (highNibble b).toNat < 8 := by rw [highNibble_toNat]; omega
  unfold decodeByte
  generalize (highNibble b).toNat = h at hhigh
  interval_cases h <;> rfl

theorem decodeByte_dataByte (value : BitVec 7) : decodeByte (dataByte value) = .data value := by
  rw [decodeByte_of_lt (by rw [dataByte_toNat]; exact value.isLt), sevenBits_dataByte]

@[simp] theorem Mode.ofCode_code (m : Mode) : Mode.ofCode m.code = m := by cases m <;> rfl

@[simp] theorem Mode.code_ofCode (c : BitVec 2) : (Mode.ofCode c).code = c := by revert c; decide

/-- Every instruction's word is a word of the interface (R102, R105). -/
theorem encode_wellFormed (i : Instr) : (encode i).wellFormed = true := by
  cases i with
  | processByte b => exact EncodeFits.processByte b
  | setSemitones n => exact EncodeFits.setSemitones n
  | setMode m => exact EncodeFits.setMode m
  | _ => rfl

/-- A command word whose argument fits decodes by its code (R102). -/
theorem decode_command {op : BitVec 4} {arg : Nat} (hfits : (Packet.command op arg).wellFormed = true) :
    decode (.command op arg) = .ok (decodeCommand op arg) := if_pos hfits

/-- Only a word of the interface decodes. -/
theorem wellFormed_of_decode {p : Packet} {i : Instr} (h : decode p = .ok i) : p.wellFormed = true := by
  cases p with
  | stream b => rfl
  | command op arg =>
    by_contra hbad
    simp [decode, hbad] at h

/-- Settles O39: a status byte gives its nibbles back, a data byte its seven bits, and an argument that fits is read whole. -/
theorem decodeOfEncodeIsTheInstruction : Obligations.DecodeOfEncodeIsTheInstruction := by
  intro i
  have hfits : (encode i).wellFormed = true := encode_wellFormed i
  cases i with
  | noteOff lo | noteOn lo | polyAt lo | ctrlChg lo | progChg lo | chanAt lo | pitchBend lo =>
    simp [encode, decode, decodeByte]
  | data value => exact congrArg Except.ok (decodeByte_dataByte value)
  | processByte b => exact (decode_command hfits).trans (by simp [decodeCommand])
  | setSemitones n => exact (decode_command hfits).trans (by simp [decodeCommand])
  | setMode m => exact (decode_command hfits).trans (by simp [decodeCommand])
  | _ => rfl

/-- The system message of a low nibble is encoded as the byte `0xF0` and that nibble (R94). -/
theorem encode_decodeByte_system (lo : BitVec 4) : encode (decodeByte (statusByte 0xF lo)) = .stream (statusByte 0xF lo) := by
  revert lo; decide

/-- The eight high nibbles of a status byte (R93, R94). -/
theorem highNibble_cases_of_status {hi : BitVec 4} (h : 8 ≤ hi.toNat) :
    hi = 0x8 ∨ hi = 0x9 ∨ hi = 0xA ∨ hi = 0xB ∨ hi = 0xC ∨ hi = 0xD ∨ hi = 0xE ∨ hi = 0xF := by
  revert hi; decide

/-- A status byte is the encoding of the instruction it is: the high nibble gives the class, the low one its operand or its message. -/
theorem encode_decodeByte_statusByte {hi : BitVec 4} (h : 8 ≤ hi.toNat) (lo : BitVec 4) :
    encode (decodeByte (statusByte hi lo)) = .stream (statusByte hi lo) := by
  rcases highNibble_cases_of_status h with rfl | rfl | rfl | rfl | rfl | rfl | rfl | rfl
  case inr.inr.inr.inr.inr.inr.inr => exact encode_decodeByte_system lo
  all_goals simp [decodeByte, encode]

/-- Every stream byte is the encoding of the instruction it is (R91 to R94, R105). -/
theorem encode_decodeByte (b : Byte) : encode (decodeByte b) = .stream b := by
  by_cases hdata : b.toNat < 128
  · rw [decodeByte_of_lt hdata]
    exact congrArg Packet.stream (dataByte_sevenBits hdata)
  · have hhigh : 8 ≤ (highNibble b).toNat := by rw [highNibble_toNat]; omega
    rw [← statusByte_nibbles b]
    exact encode_decodeByte_statusByte hhigh (lowNibble b)

/-- The width of each command's argument (R102). -/
theorem argumentWidth_cases (op : BitVec 4) :
    (op = 0x1 ∧ argumentWidth op = some 8) ∨ (op = 0x3 ∧ argumentWidth op = some 32) ∨ op = 0x9 ∨
      (op = 0xA ∧ argumentWidth op = some 2) ∨
      (op ≠ 0x1 ∧ op ≠ 0x3 ∧ op ≠ 0x9 ∧ op ≠ 0xA ∧ argumentWidth op = some 0) := by
  revert op; decide

/-- An argument of a known width fits when it is below two to that width (R102). -/
theorem argument_lt_of_width {op : BitVec 4} {arg w : Nat} (hwidth : argumentWidth op = some w)
    (hfits : (Packet.command op arg).wellFormed = true) : arg < 2 ^ w := by
  simpa [Packet.wellFormed, hwidth] using hfits

/-- A command without an argument is the word of its code (R102). -/
theorem encode_decodeCommand_zero {op : BitVec 4} (h1 : op ≠ 0x1) (h3 : op ≠ 0x3) (h9 : op ≠ 0x9) (hA : op ≠ 0xA) :
    encode (decodeCommand op 0) = .command op 0 := by
  revert op; decide

/-- A command word of the interface is the encoding of the instruction it is: its argument is read whole (R102). -/
theorem encode_decodeCommand {op : BitVec 4} {arg : Nat} (hfits : (Packet.command op arg).wellFormed = true) :
    encode (decodeCommand op arg) = .command op arg := by
  rcases argumentWidth_cases op with ⟨rfl, hwidth⟩ | ⟨rfl, hwidth⟩ | rfl | ⟨rfl, hwidth⟩ | ⟨h1, h3, h9, hA, hwidth⟩
  case inr.inr.inl => rfl
  all_goals have harg := argument_lt_of_width hwidth hfits
  · exact congrArg (Packet.command _) (Nat.mod_eq_of_lt harg)
  · exact congrArg (Packet.command _) (Nat.mod_eq_of_lt harg)
  · refine congrArg (Packet.command _) ?_
    rw [Mode.code_ofCode]
    exact Nat.mod_eq_of_lt harg
  · obtain rfl : arg = 0 := Nat.lt_one_iff.1 harg
    exact encode_decodeCommand_zero h1 h3 h9 hA

/-- Settles O40: a byte is its nibbles, and a command's argument that fits is written back whole. -/
theorem encodeOfDecodeIsTheWord : Obligations.EncodeOfDecodeIsTheWord := by
  intro p i hdecode
  have hfits : p.wellFormed = true := wellFormed_of_decode hdecode
  cases p with
  | stream b =>
    obtain rfl : decodeByte b = i := Except.ok.inj hdecode
    exact encode_decodeByte b
  | command op arg =>
    obtain rfl : decodeCommand op arg = i := Except.ok.inj ((decode_command hfits).symm.trans hdecode)
    exact encode_decodeCommand hfits

/-- Settles O41: nine words, each decoded as it stands. -/
theorem wordsDecodeAsTheSpecEncodesThem : Obligations.WordsDecodeAsTheSpecEncodesThem := by
  unfold Obligations.WordsDecodeAsTheSpecEncodesThem
  decide

end Sys2Proof.Proofs
end

section
/-! Receiving a stream byte: each class with the length of its own rule against the table of lengths, the two branches of a data byte, and the
ready cursor (40_decoder.md R120 to R147, 20_memory.md R78). -/

namespace Sys2Proof.Proofs

open Sys2Proof.Machine Sys2Proof.Safety Sys2Proof.Laws

/-- Settles O5: each byte is looked up. -/
theorem lengthTableIsTheSpecs : Obligations.LengthTableIsTheSpecs := by
  unfold Obligations.LengthTableIsTheSpecs
  decide

/-- Settles O3: every class of channel-voice byte is a status step with its own byte and length. -/
theorem voiceStatusOpensSlot : Obligations.VoiceStatusOpensSlot := fun lo s =>
  ⟨receiveStatus_opensSlot (statusByte 0x8 lo) 2 s, receiveStatus_opensSlot (statusByte 0x9 lo) 2 s,
    receiveStatus_opensSlot (statusByte 0xA lo) 2 s, receiveStatus_opensSlot (statusByte 0xB lo) 1 s,
    receiveStatus_opensSlot (statusByte 0xC lo) 1 s, receiveStatus_opensSlot (statusByte 0xD lo) 1 s,
    receiveStatus_opensSlot (statusByte 0xE lo) 2 s⟩

/-- Settles O4: every system byte is a status step with its own length. -/
theorem systemStatusOpensSlot : Obligations.SystemStatusOpensSlot := fun s =>
  ⟨receiveStatus_opensSlot 0xF0 0 s, receiveStatus_opensSlot 0xF1 1 s, receiveStatus_opensSlot 0xF2 2 s,
    receiveStatus_opensSlot 0xF3 1 s, receiveStatus_opensSlot 0xF4 0 s, receiveStatus_opensSlot 0xF5 0 s,
    receiveStatus_opensSlot 0xF6 0 s, receiveStatus_opensSlot 0xF7 0 s, receiveStatus_opensSlot 0xF8 0 s,
    receiveStatus_opensSlot 0xF9 0 s, receiveStatus_opensSlot 0xFA 0 s, receiveStatus_opensSlot 0xFB 0 s,
    receiveStatus_opensSlot 0xFC 0 s, receiveStatus_opensSlot 0xFD 0 s, receiveStatus_opensSlot 0xFE 0 s,
    receiveStatus_opensSlot 0xFF 0 s⟩

/-! ### `PROCESS_BYTE` against the byte's own class -/

/-- Bit 7 is set just when the byte is 128 or more (R91). -/
theorem isStatus_iff (b : Byte) : isStatus b = true ↔ 128 ≤ b.toNat := by
  rw [isStatus, BitVec.msb_eq_decide, decide_eq_true_iff]

theorem isStatus_eq_false_iff (b : Byte) : isStatus b = false ↔ b.toNat < 128 := by
  rw [← Bool.not_eq_true, isStatus_iff, Nat.not_le]

theorem isStatus_dataByte (value : BitVec 7) : isStatus (dataByte value) = false := by
  rw [isStatus_eq_false_iff, dataByte_toNat]
  exact value.isLt

/-- The instruction of a status byte is the status step with the length the table gives the byte (R124 to R146 against R96). -/
theorem exec_of_encode_status {i : Instr} {b : Byte} (s : State) (hword : encode i = .stream b) (hb : isStatus b = true) :
    exec i s = receiveStatus b (len b) s := by
  cases i with
  | noteOff lo | noteOn lo | polyAt lo | ctrlChg lo | progChg lo | chanAt lo | pitchBend lo =>
    obtain rfl := Packet.stream.inj hword
    simp only [len, highNibble_statusByte]
    rfl
  | data value =>
    obtain rfl := Packet.stream.inj hword
    exact absurd (hb.symm.trans (isStatus_dataByte value)) Bool.noConfusion
  | nop | processByte _ | dispatch | setSemitones _ | getSemitones | reserved5 | reserved6 | reserved7
  | nextSample | setFrequency _ | setMode _ | getMode | reservedC | reservedD | reservedE | reset => cases hword
  | _ =>
    obtain rfl := Packet.stream.inj hword
    rfl

/-- The class of a data byte is the data step (R147). -/
theorem exec_decodeByte_of_data {b : Byte} (s : State) (hb : isStatus b = false) :
    exec (decodeByte b) s = .next (s.withMfe (s.mfe.receiveData Config.readyGating b)) := by
  have hlt : b.toNat < 128 := (isStatus_eq_false_iff b).1 hb
  calc exec (decodeByte b) s
    _ = execData (sevenBits b) s := by rw [decodeByte_of_lt hlt]; rfl
    _ = .next (s.withMfe (s.mfe.receiveData Config.readyGating b)) := by rw [execData, dataByte_sevenBits hlt]

/-- The class of a byte does what `PROCESS_BYTE` of it does (R120 against R124 to R147). -/
theorem exec_decodeByte (b : Byte) (s : State) :
    exec (decodeByte b) s = .next (s.withMfe (s.mfe.processByte Config.readyGating b)) := by
  rcases processByte_cases Config.readyGating s.mfe b with ⟨hb, hstep⟩ | ⟨hb, hstep⟩
  · rw [exec_of_encode_status s (encode_decodeByte b) hb, hstep, receiveStatus]
  · rw [exec_decodeByte_of_data s hb, hstep]

/-- Settles O7: each class's own length is the table's. -/
theorem processByteRunsItsClass : Obligations.ProcessByteRunsItsClass := fun b s =>
  ⟨_, exec_processByte b s, exec_decodeByte b s⟩

/-! ### The two branches of a data byte, and the ready cursor -/

/-! Both branches of a data byte keep the registers of other commands (R122, R123). -/

@[simp] theorem dataStep_rdy {n : Nat} (m : Mfe n) (b : Byte) : (m.dataStep b).rdy = m.rdy := by
  rcases dataStep_cases m b with ⟨idx, _, _, hstep⟩ | ⟨_, hstep⟩ <;> rw [hstep] <;> rfl

@[simp] theorem dataStep_rd {n : Nat} (m : Mfe n) (b : Byte) : (m.dataStep b).rd = m.rd := by
  rcases dataStep_cases m b with ⟨idx, _, _, hstep⟩ | ⟨_, hstep⟩ <;> rw [hstep] <;> rfl

@[simp] theorem dataStep_semitoneRange {n : Nat} (m : Mfe n) (b : Byte) : (m.dataStep b).semitoneRange = m.semitoneRange := by
  rcases dataStep_cases m b with ⟨idx, _, _, hstep⟩ | ⟨_, hstep⟩ <;> rw [hstep] <;> rfl

/-- After a byte the ready cursor of the option stands at the write cursor if the newest message is complete (20_memory.md R78). -/
theorem processByte_rdy {n : Nat} (g : Bool) (m : Mfe n) (b : Byte) :
    (m.processByte g b).rdy =
      if g = true ∧ (m.processByte g b).expectedLen ≤ (m.processByte g b).dataIdx then (m.processByte g b).wr else m.rdy := by
  rcases processByte_cases g m b with ⟨_, hstep⟩ | ⟨_, hstep⟩ <;>
    simp [hstep, Mfe.receiveStatus, Mfe.receiveData, updateReady_rdy]

/-- Settles O10: every byte ends with the ready cursor's update, and the step before it leaves that cursor alone. -/
theorem readyCursorFollowsCompleteMessages : Obligations.ReadyCursorFollowsCompleteMessages := fun b s =>
  ⟨_, exec_processByte b s, exec_decodeByte b s, processByte_rdy Config.readyGating s.mfe b⟩

/-- `DATA` always completes, and moves MFE alone (R147). -/
theorem exec_data (v : BitVec 7) (s : State) :
    exec (.data v) s = .next (s.withMfe (s.mfe.receiveData Config.readyGating (dataByte v))) := rfl

theorem dataByte_eq_setWidth (v : BitVec 7) : dataByte v = v.setWidth 8 := by
  apply BitVec.eq_of_toNat_eq
  rw [dataByte_toNat, BitVec.toNat_setWidth_of_le (by decide)]

/-- A data byte writes no register of another command, and the ready cursor only with the option. -/
theorem receiveData_decoderFrame (b : Byte) (s : State) :
    DecoderFrame s (s.withMfe (s.mfe.receiveData Config.readyGating b)) := by
  refine ⟨fun hg => ?_, ?_, ?_, rfl, rfl, rfl⟩
  · exact (updateReady_rdy_of_not_gating _ hg).trans (dataStep_rdy s.mfe b)
  · exact (updateReady_rd ..).trans (dataStep_rd s.mfe b)
  · exact (updateReady_semitoneRange ..).trans (dataStep_semitoneRange s.mfe b)

/-- While a message is in flight a data byte fills its next position (R122). -/
theorem dataStep_of_inFlight {n : Nat} {m : Mfe n} (b : Byte) (h : m.dataIdx < m.expectedLen) :
    ∃ idx : Fin 3, idx.val = m.dataIdx.val + 1 ∧ idx ≤ m.expectedLen ∧
      m.dataStep b = { m.writeSlot (cursorPrev m.wr) idx b with dataIdx := idx } := by
  rcases dataStep_cases m b with hfill | ⟨hle, _⟩
  · exact hfill
  · exact absurd hle (not_le.2 h)

/-- After a complete message a data byte opens a slot under running status (R123). -/
theorem dataStep_of_complete {n : Nat} {m : Mfe n} (b : Byte) (h : m.expectedLen ≤ m.dataIdx) :
    m.dataStep b = m.runningStatusOpen b := by
  rcases dataStep_cases m b with ⟨idx, hidx, hle, _⟩ | ⟨_, hopen⟩
  · exact absurd (h.trans_lt (Fin.lt_def.2 (hidx ▸ Nat.lt_succ_self _))) (not_lt.2 hle)
  · exact hopen

/-- Settles O8: the data step's first branch, which writes one byte and the index. -/
theorem dataByteFillsMessageInFlight : Obligations.DataByteFillsMessageInFlight := by
  intro v s hflight
  obtain ⟨idx, hidx, _, hstep⟩ := dataStep_of_inFlight (dataByte v) hflight
  refine ⟨_, exec_data v s, ?_, ?_, ?_, ?_, ?_, receiveData_decoderFrame (dataByte v) s⟩ <;>
    simp only [withMfe_mfe, Mfe.receiveData, hstep, updateReady_dataIdx, updateReady_slots, updateReady_runningStatus,
      updateReady_expectedLen, updateReady_wr, writeSlot_slots, writeSlot_runningStatus, writeSlot_expectedLen, writeSlot_wr]
  · exact hidx
  · intro a
    rw [Memory.read_write, slotAddr, cursorPrev_val, hidx, dataByte_eq_setWidth]

/-- Settles O9: the data step's second branch, which writes positions 0 and 1 of the slot at the write cursor. -/
theorem dataByteOpensRunningStatusSlot : Obligations.DataByteOpensRunningStatusSlot := by
  intro v s hcomplete
  have hstep := dataStep_of_complete (dataByte v) hcomplete
  refine ⟨_, exec_data v s, ?_, ?_, ?_, ?_, ?_, receiveData_decoderFrame (dataByte v) s⟩ <;>
    simp only [withMfe_mfe, Mfe.receiveData, hstep, updateReady_dataIdx, updateReady_slots, updateReady_runningStatus,
      updateReady_expectedLen, updateReady_wr, runningStatusOpen_slots, runningStatusOpen_runningStatus,
      runningStatusOpen_expectedLen, runningStatusOpen_wr, runningStatusOpen_dataIdx, cursorNext_val]
  intro a
  have haddr0 : slotAddr s.mfe.wr 0 = 3 * s.mfe.wr.val := rfl
  have haddr1 : slotAddr s.mfe.wr 1 = 3 * s.mfe.wr.val + 1 := rfl
  rw [Memory.read_write, Memory.read_write, haddr0, haddr1, dataByte_eq_setWidth]
  by_cases hfirst : a = 3 * s.mfe.wr.val <;> simp [hfirst]

end Sys2Proof.Proofs
end

section
/-! Reset, the commands that write or read one register, the step, and the events of one message (10_state.md R42, 41_dispatcher.md R172 to R184,
42_oscillator.md R210 to R212). -/

namespace Sys2Proof.Proofs

open Sys2Proof.Machine Sys2Proof.Safety Sys2Proof.Laws

/-- Settles O1: each register as reset defines it; no slot byte is listed, so each reads as `0x00`. -/
theorem resetStateHasTheSpecsValues : Obligations.ResetStateHasTheSpecsValues :=
  ⟨rfl, rfl, rfl, rfl, rfl, rfl, rfl, fun i p => Memory.read_empty (slotAddr i p), rfl, rfl, rfl, rfl, rfl, rfl, rfl⟩

/-- Settles O2: `RESET` writes both sub-blocks and nothing else. -/
theorem resetCommandRestoresResetState : Obligations.ResetCommandRestoresResetState := fun _ => rfl

/-- Settles O21. -/
theorem semitoneRangeSetAndRead : Obligations.SemitoneRangeSetAndRead := fun _ _ => ⟨rfl, rfl⟩

/-- Settles O22. -/
theorem nopAndReservedCodesChangeNothing : Obligations.NopAndReservedCodesChangeNothing := fun _ =>
  ⟨rfl, rfl, rfl, rfl, rfl, rfl, rfl⟩

/-- Settles O29: the coefficient `A0` is formed from the `B1` just computed. -/
theorem setFrequencyWritesIncrementAndCoefficients : Obligations.SetFrequencyWritesIncrementAndCoefficients := fun _ _ => rfl

/-- The codes of the modes (R103). -/
theorem mode_code_eq (m : Mode) :
    m.code = match m with | .sine => 0 | .sawtooth => 1 | .square => 2 | .triangle => 3 := by
  cases m <;> rfl

/-- Settles O30: `GET_MODE` returns the code of the mode held. -/
theorem modeSetAndRead : Obligations.ModeSetAndRead := fun _ s =>
  ⟨rfl, congrArg (fun c => Host.Outcome.next (s.emit (.mode c))) (mode_code_eq s.osc.mode)⟩

/-- Settles O42: with a word waiting the step runs what it decodes to, with none it idles. -/
theorem stepRunsTheDecodedInstruction : Obligations.StepRunsTheDecodedInstruction :=
  ⟨fun _ _ _ _ hword hdecode => step_of_inbox_cons hword hdecode, fun _ hnone => step_of_inbox_nil hnone⟩

/-- An argument that does not fit is the one reason a word is no instruction (log entry 9). -/
theorem decode_command_of_not_wellFormed {op : BitVec 4} {arg : Nat} (hwide : (Packet.command op arg).wellFormed = false) :
    decode (.command op arg) = .error (.operandTooWide op) :=
  if_neg (by simp [hwide])

/-- Settles O43: the decoder's error is the step's refusal. -/
theorem malformedWordIsRefused : Obligations.MalformedWordIsRefused := by
  intro s op arg rest hword hwide
  simp [step, stepInbox, runWord, hword, decode_command_of_not_wellFormed hwide]

/-- At most one event follows the raw one: the classes exclude one another (R180). -/
theorem classify_length_le_one {α : Type} (M : NumSystem α) (semitones : BitVec 32) (m : Slot) :
    (classify M semitones m).length ≤ 1 := by
  unfold classify
  split_ifs <;> simp

/-- Settles O16. -/
theorem rawEventComesFirst : Obligations.RawEventComesFirst := fun _ M semitones m =>
  ⟨rfl, classify_length_le_one M semitones m⟩

/-- Settles O19: `bendFactor` with `bendNormalized` put in. -/
theorem bendFactorFollowsTheFormula : Obligations.BendFactorFollowsTheFormula := fun _ _ _ _ => rfl

end Sys2Proof.Proofs
end

section
/-! `NEXT_SAMPLE` for any number system (42_oscillator.md R200 to R209). -/

namespace Sys2Proof.Proofs

open Sys2Proof.Machine Sys2Proof.Safety Sys2Proof.Laws

/-- `NEXT_SAMPLE` always completes, moves OSC alone and returns one sample (R200). -/
theorem exec_nextSample (s : State) :
    exec .nextSample s = .next ((s.withOsc (s.osc.nextSample Config.num).1).emit (.sample (s.osc.nextSample Config.num).2)) := rfl

section Modes

variable {α : Type} (M : NumSystem α) {o : Osc α}

/-! Each mode's sample and what becomes of the oscillator (R201, R204, R206, R207). -/

theorem nextSample_of_sine (h : o.mode = .sine) : o.nextSample M = (o.advancePhase M, o.sineOut M) := by
  simp [Osc.nextSample, h]

theorem nextSample_of_sawtooth (h : o.mode = .sawtooth) : o.nextSample M = (o.advancePhase M, o.sawOut M) := by
  simp [Osc.nextSample, h]

theorem nextSample_of_square (h : o.mode = .square) : o.nextSample M = (o.advancePhase M, o.squareOut M) := by
  simp [Osc.nextSample, h]

theorem nextSample_of_triangle (h : o.mode = .triangle) :
    o.nextSample M = ((o.filter M).advancePhase M, (o.filter M).stageB) := by
  simp [Osc.nextSample, h]

/-- Outside Triangle mode the oscillator only advances its phase (R200). -/
theorem nextSample_fst_of_ne_triangle (h : o.mode ≠ .triangle) : (o.nextSample M).1 = o.advancePhase M := by
  cases hm : o.mode with
  | sine => rw [nextSample_of_sine M hm]
  | sawtooth => rw [nextSample_of_sawtooth M hm]
  | square => rw [nextSample_of_square M hm]
  | triangle => exact absurd hm h

end Modes

/-- Settles O23: the two wraps are those of `AdvancePhase`, whatever the mode. -/
theorem nextSampleAdvancesPhase : Obligations.NextSampleAdvancesPhase := by
  intro s
  refine ⟨_, _, exec_nextSample s, nextSample_phase .., nextSample_mode .., nextSample_phaseInc .., nextSample_a0 ..,
    nextSample_b1 .., fun hmode => ?_, rfl, rfl, rfl⟩
  have hosc := nextSample_fst_of_ne_triangle Config.num hmode
  exact ⟨(congrArg Osc.stageA hosc :), (congrArg Osc.stageB hosc :)⟩

/-- Settles O24. -/
theorem sineSampleIsSinOfPhase : Obligations.SineSampleIsSinOfPhase := by
  intro s hmode
  refine ⟨_, exec_nextSample s, ?_⟩
  rw [nextSample_of_sine _ hmode]
  exact ⟨rfl, rfl, rfl, rfl⟩

/-- Settles O25. -/
theorem sawtoothSampleIsCorrectedRamp : Obligations.SawtoothSampleIsCorrectedRamp := by
  intro s hmode
  refine ⟨_, exec_nextSample s, ?_⟩
  rw [nextSample_of_sawtooth _ hmode]
  exact ⟨rfl, rfl, rfl, rfl⟩

/-- Settles O26. -/
theorem squareSampleIsCorrectedTwice : Obligations.SquareSampleIsCorrectedTwice := by
  intro s hmode
  refine ⟨_, exec_nextSample s, ?_⟩
  rw [nextSample_of_square _ hmode]
  exact ⟨rfl, rfl, rfl, rfl⟩

/-- Settles O27: the second stage reads the first stage's new value. -/
theorem triangleSampleFiltersTheSquare : Obligations.TriangleSampleFiltersTheSquare := by
  intro s hmode
  refine ⟨_, exec_nextSample s, ?_⟩
  rw [nextSample_of_triangle _ hmode]
  exact ⟨⟨rfl, rfl⟩, rfl, rfl⟩

/-- Settles O28. -/
theorem blepFollowsTheFormula : Obligations.BlepFollowsTheFormula := fun _ _ _ _ => rfl

end Sys2Proof.Proofs
end

section
/-! The two sub-blocks share no state: an instruction of one is a function of that sub-block alone (00_scope.md R2,
20_memory.md R73, 42_oscillator.md R222). -/

namespace Sys2Proof.Proofs

open Sys2Proof.Machine Sys2Proof.Safety Sys2Proof.Laws

/-- The instruction is the function `f` of MFE alone, which gives its new state and the results returned. -/
def ActsOnMfe (i : Instr) (f : Mfe Config.slotCount → Mfe Config.slotCount × List (Output NumVal)) : Prop :=
  ∀ s : State, exec i s = .next { s with mfe := (f s.mfe).1, outputs := s.outputs ++ (f s.mfe).2 }

/-- The instruction is the function `f` of OSC alone, which gives its new state and the results returned. -/
def ActsOnOsc (i : Instr) (f : Osc NumVal → Osc NumVal × List (Output NumVal)) : Prop :=
  ∀ s : State, exec i s = .next { s with osc := (f s.osc).1, outputs := s.outputs ++ (f s.osc).2 }

/-- An instruction that writes MFE and returns nothing. -/
theorem actsOnMfe_of_quiet {i : Instr} {f : Mfe Config.slotCount → Mfe Config.slotCount}
    (h : ∀ s, exec i s = .next (s.withMfe (f s.mfe))) : ActsOnMfe i fun m => (f m, []) := fun s => by
  rw [h, List.append_nil]
  rfl

/-- An instruction that writes OSC and returns nothing. -/
theorem actsOnOsc_of_quiet {i : Instr} {f : Osc NumVal → Osc NumVal}
    (h : ∀ s, exec i s = .next (s.withOsc (f s.osc))) : ActsOnOsc i fun o => (f o, []) := fun s => by
  rw [h, List.append_nil]
  rfl

/-- An instruction of the stream is its byte received (40_decoder.md R120). -/
theorem exec_of_encode_stream {i : Instr} {b : Byte} (s : State) (hword : encode i = .stream b) :
    exec i s = .next (s.withMfe (s.mfe.processByte Config.readyGating b)) := by
  have hdecode : decode (encode i) = .ok i := decodeOfEncodeIsTheInstruction i
  rw [hword] at hdecode
  obtain rfl : decodeByte b = i := Except.ok.inj hdecode
  exact exec_decodeByte b s

/-- Every MFE instruction is a function of MFE alone. -/
theorem actsOnMfe_of_isMfe {i : Instr} (hi : isMfe i = true) : ∃ f, ActsOnMfe i f := by
  cases hword : encode i with
  | stream b =>
    exact ⟨_, actsOnMfe_of_quiet (f := fun m => m.processByte Config.readyGating b) fun s => exec_of_encode_stream s hword⟩
  | command op arg =>
    cases i with
    | processByte b => exact ⟨_, actsOnMfe_of_quiet (f := fun m => m.processByte Config.readyGating b) fun _ => rfl⟩
    | dispatch =>
      exact ⟨fun m => ((m.dispatch Config.num Config.readyGating).1, [.events (m.dispatch Config.num Config.readyGating).2]),
        fun _ => rfl⟩
    | setSemitones n => exact ⟨_, actsOnMfe_of_quiet (f := fun m => { m with semitoneRange := n }) fun _ => rfl⟩
    | getSemitones => exact ⟨fun m => (m, [.semitones m.semitoneRange]), fun _ => rfl⟩
    | nop | reserved5 | reserved6 | reserved7 | nextSample | setFrequency _ | setMode _ | getMode
    | reservedC | reservedD | reservedE | reset => cases hi
    | _ => cases hword

/-- Every OSC instruction is a function of OSC alone. -/
theorem actsOnOsc_of_isOsc {i : Instr} (hi : isOsc i = true) : ∃ f, ActsOnOsc i f := by
  cases i with
  | nextSample => exact ⟨fun o => ((o.nextSample Config.num).1, [.sample (o.nextSample Config.num).2]), fun _ => rfl⟩
  | setFrequency hz =>
    exact ⟨_, actsOnOsc_of_quiet (f := fun o => o.setFrequency Config.num Config.sampleRate hz) fun _ => rfl⟩
  | setMode m => exact ⟨_, actsOnOsc_of_quiet (f := fun o => o.setMode m) fun _ => rfl⟩
  | getMode => exact ⟨fun o => (o, [.mode o.mode.code]), fun _ => rfl⟩
  | _ => cases hi

theorem ActsOnMfe.eq_of_next {i : Instr} {f : Mfe Config.slotCount → Mfe Config.slotCount × List (Output NumVal)}
    (hf : ActsOnMfe i f) {s t : State} (h : exec i s = .next t) :
    t = { s with mfe := (f s.mfe).1, outputs := s.outputs ++ (f s.mfe).2 } :=
  (Host.Outcome.next.inj ((hf s).symm.trans h)).symm

theorem ActsOnOsc.eq_of_next {i : Instr} {f : Osc NumVal → Osc NumVal × List (Output NumVal)}
    (hf : ActsOnOsc i f) {s t : State} (h : exec i s = .next t) :
    t = { s with osc := (f s.osc).1, outputs := s.outputs ++ (f s.osc).2 } :=
  (Host.Outcome.next.inj ((hf s).symm.trans h)).symm

/-- Settles O47: each side's instruction is a function of its own sub-block, so the other sub-block neither changes nor matters. -/
theorem subBlocksDoNotInterfere : Obligations.SubBlocksDoNotInterfere := by
  refine ⟨?_, ?_, ?_, ?_, ?_⟩
  · intro i s t hi h
    obtain ⟨f, hf⟩ := actsOnMfe_of_isMfe hi
    rw [hf.eq_of_next h]
  · intro i s t hi h
    obtain ⟨f, hf⟩ := actsOnOsc_of_isOsc hi
    rw [hf.eq_of_next h]
  · intro i s s' t t' hi hsame h h'
    obtain ⟨f, hf⟩ := actsOnMfe_of_isMfe hi
    obtain rfl := hf.eq_of_next h
    obtain rfl := hf.eq_of_next h'
    exact ⟨congrArg (fun m => (f m).1) hsame, (f s.mfe).2, rfl, by rw [hsame]⟩
  · intro i s s' t t' hi hsame h h'
    obtain ⟨f, hf⟩ := actsOnOsc_of_isOsc hi
    obtain rfl := hf.eq_of_next h
    obtain rfl := hf.eq_of_next h'
    exact ⟨congrArg (fun o => (f o).1) hsame, (f s.osc).2, rfl, by rw [hsame]⟩
  · intro i j s t u t' u' hi hj hit hju hjt hiu
    obtain ⟨f, hf⟩ := actsOnMfe_of_isMfe hi
    obtain ⟨g, hg⟩ := actsOnOsc_of_isOsc hj
    obtain rfl := hf.eq_of_next hit
    obtain rfl := hg.eq_of_next hju
    obtain rfl := hg.eq_of_next hjt
    obtain rfl := hf.eq_of_next hiu
    exact ⟨rfl, rfl, (f s.mfe).2, (g s.osc).2, rfl, rfl, rfl, rfl⟩

end Sys2Proof.Proofs
end

section
/-! Draining the buffer: `DISPATCH` delivers the messages between the read cursor and its limit
(41_dispatcher.md R170, R171, 20_memory.md R69, R70). -/

namespace Sys2Proof.Proofs

open Sys2Proof.Machine Sys2Proof.Safety Sys2Proof.Laws

section Drain

variable {n : Nat} {α : Type} (M : NumSystem α)

/-- The events of the `k` messages from a cursor on, in slot order (R70, R170). -/
def eventsFrom (m : Mfe n) (c : Fin n) (k : Nat) : List (Event α) :=
  (List.range k).flatMap fun j => messageEvents M m.semitoneRange (m.slot (cursorAdd c j))

/-- The first message, then those from the next cursor on. -/
theorem eventsFrom_succ (m : Mfe n) (c : Fin n) (k : Nat) :
    eventsFrom M m c (k + 1) = messageEvents M m.semitoneRange (m.slot c) ++ eventsFrom M m (cursorNext c) k := by
  simp [eventsFrom, List.range_succ_eq_map, List.flatMap_map, cursorAdd_next]

/-- Enough rounds bring the read cursor to the limit, and each round delivers one message (R170). -/
theorem drain_eq (m : Mfe n) (limit : Fin n) (fuel : Nat) (hfuel : cursorDistance limit m.rd ≤ fuel) :
    m.drain M limit fuel = ({ m with rd := limit }, eventsFrom M m m.rd (cursorDistance limit m.rd)) := by
  induction fuel generalizing m with
  | zero =>
    have hdone : m.rd = limit := (cursorDistance_eq_zero limit m.rd).1 (Nat.le_zero.1 hfuel)
    subst hdone
    rw [drain_zero, (cursorDistance_eq_zero m.rd m.rd).2 rfl]
    rfl
  | succ fuel ih =>
    by_cases hdone : m.rd = limit
    · subst hdone
      rw [drain_done M m m.rd (fuel + 1) rfl, (cursorDistance_eq_zero m.rd m.rd).2 rfl]
      rfl
    · have hnext : cursorDistance limit (cursorNext m.rd) + 1 = cursorDistance limit m.rd := cursorDistance_next hdone
      have hrest := ih { m with rd := cursorNext m.rd } (Nat.le_of_succ_le_succ (hnext.trans_le hfuel))
      rw [drain_succ M m limit fuel hdone, dispatchOne_fst, hrest, ← hnext, eventsFrom_succ]
      rfl

/-- `DISPATCH` and its list: the read cursor goes to the limit, and everything between is delivered (R170). -/
theorem dispatch_eq (g : Bool) (m : Mfe n) :
    m.dispatch M g = ({ m with rd := m.limit g }, eventsFrom M m m.rd (m.avail g)) :=
  drain_eq M m (m.limit g) n (cursorDistance_lt (m.limit g) m.rd).le

end Drain

/-- Settles O14: `n` rounds are enough. -/
theorem dispatchDrainsToItsLimit : Obligations.DispatchDrainsToItsLimit := by
  intro s
  show execDispatch s = _
  rw [execDispatch, dispatch_eq]
  rfl

/-- Settles O15: with the read cursor at the limit no round is made. -/
theorem emptyDispatchReturnsTheEmptyList : Obligations.EmptyDispatchReturnsTheEmptyList := by
  intro s hempty
  have havail : s.mfe.avail Config.readyGating = 0 := (isEmpty_iff_avail s.mfe Config.readyGating).1 hempty
  have hlimit : s.mfe.limit Config.readyGating = s.mfe.rd := (of_decide_eq_true hempty).symm
  show execDispatch s = _
  rw [execDispatch, dispatch_eq, havail, hlimit]
  rfl

end Sys2Proof.Proofs
end

section
/-! Every step keeps the invariant of the machine (10_state.md R41). -/

namespace Sys2Proof.Proofs

open Sys2Proof.Machine Sys2Proof.Safety Sys2Proof.Laws

/-- What R41 item 4 asks of the byte at a position: at 0 a status byte or `0x00`, at 1 and 2 a data byte. -/
def PositionHolds (p : Fin 3) (v : Byte) : Prop :=
  if p = 0 then v = 0x00 ∨ isStatus v = true else isStatus v = false

/-- The slot memory's part of the invariant: canonical, within the address space, each position with a byte of its kind. -/
structure SlotsInv (n : Nat) (mem : Memory) : Prop where
  canonical : mem.wf
  bounded : mem.within (3 * n)
  bytes : ∀ (i : Fin n) p, PositionHolds p (mem.read (slotAddr i p))

/-- The part of `MfeInv` that the decoder's two steps keep by themselves; the ready cursor's follows from its update. -/
structure DecoderInv {n : Nat} (m : Mfe n) : Prop where
  running : m.runningStatus = 0x00 ∨ isStatus m.runningStatus = true
  length : m.expectedLen = len m.runningStatus
  index : m.dataIdx ≤ m.expectedLen ∨ (m.dataIdx = 1 ∧ m.expectedLen = 0)
  slots : SlotsInv n m.slots

section Mfe

variable {n : Nat}

theorem mfeInv_iff (g : Bool) (m : Mfe n) :
    MfeInv g m ↔ DecoderInv m ∧ (g = true → m.inFlight = false → m.rdy = m.wr) ∧ (g = false → m.rdy.val = 0) := by
  constructor
  · intro h
    refine ⟨⟨h.running, h.length, h.index, h.canonical, h.bounded, fun i p => ?_⟩, h.ready, h.unready⟩
    match p with
    | 0 => exact h.first i
    | 1 => exact h.second i
    | 2 => exact h.third i
  · rintro ⟨h, hready, hunready⟩
    exact ⟨h.running, h.length, h.index, h.slots.canonical, h.slots.bounded, fun i => h.slots.bytes i 0,
      fun i => h.slots.bytes i 1, fun i => h.slots.bytes i 2, hready, hunready⟩

/-- A write of a byte of the position's kind keeps the slots' invariant. -/
theorem SlotsInv.write {mem : Memory} (h : SlotsInv n mem) (i : Fin n) {p : Fin 3} {v : Byte} (hv : PositionHolds p v) :
    SlotsInv n (mem.write (slotAddr i p) v) := by
  refine ⟨Memory.write_wf h.canonical _ _, Memory.write_within h.bounded (slotAddr_lt i p) v, fun j q => ?_⟩
  rw [Memory.read_write]
  split_ifs with heq
  · obtain ⟨rfl, rfl⟩ := slotAddr_inj.1 heq
    exact hv
  · exact h.bytes j q

theorem statusStep_keeps_decoderInv {m : Mfe n} {b : Byte} (h : DecoderInv m) (hb : isStatus b = true) :
    DecoderInv (m.statusStep b (len b)) :=
  ⟨.inr hb, rfl, .inl (Fin.zero_le _), h.slots.write m.wr (p := 0) (.inr hb)⟩

theorem runningStatusOpen_keeps_decoderInv {m : Mfe n} {b : Byte} (h : DecoderInv m) (hb : isStatus b = false) :
    DecoderInv (m.runningStatusOpen b) := by
  refine ⟨h.running, h.length, ?_, (h.slots.write m.wr (p := 0) h.running).write m.wr (p := 1) hb⟩
  rcases eq_or_ne m.expectedLen 0 with hzero | hne
  · exact .inr ⟨rfl, hzero⟩
  · exact .inl (Fin.one_le_of_ne_zero hne)

theorem dataStep_keeps_decoderInv {m : Mfe n} {b : Byte} (h : DecoderInv m) (hb : isStatus b = false) :
    DecoderInv (m.dataStep b) := by
  rcases dataStep_cases m b with ⟨idx, hidx, hle, hstep⟩ | ⟨_, hstep⟩ <;> rw [hstep]
  · have hpos : idx ≠ 0 := fun h0 => by simp [h0] at hidx
    exact ⟨h.running, h.length, .inl hle, h.slots.write (cursorPrev m.wr) ((if_neg hpos).mpr hb)⟩
  · exact runningStatusOpen_keeps_decoderInv h hb

/-- The ready cursor is no part of it. -/
theorem updateReady_keeps_decoderInv {g : Bool} {m : Mfe n} (h : DecoderInv m) : DecoderInv (m.updateReady g) := by
  unfold Mfe.updateReady
  split
  · exact ⟨h.running, h.length, h.index, h.slots⟩
  · exact h

theorem processByte_keeps_decoderInv {m : Mfe n} (g : Bool) (b : Byte) (h : DecoderInv m) : DecoderInv (m.processByte g b) := by
  rcases processByte_cases g m b with ⟨hb, hstep⟩ | ⟨hb, hstep⟩ <;> rw [hstep]
  · exact updateReady_keeps_decoderInv (statusStep_keeps_decoderInv h hb)
  · exact updateReady_keeps_decoderInv (dataStep_keeps_decoderInv h hb)

/-- No message is in flight when the newest one has all its data bytes (10_state.md R40). -/
theorem inFlight_eq_false_iff (m : Mfe n) : m.inFlight = false ↔ m.expectedLen ≤ m.dataIdx := by
  rw [Mfe.inFlight, decide_eq_false_iff_not, not_lt]

/-- Receiving any byte keeps the invariant: the steps keep the registers and the slots, the update the ready cursor. -/
theorem processByte_keeps_mfeInv {g : Bool} {m : Mfe n} (b : Byte) (h : MfeInv g m) : MfeInv g (m.processByte g b) := by
  obtain ⟨hdecoder, _, hunready⟩ := (mfeInv_iff g m).1 h
  refine (mfeInv_iff _ _).2 ⟨processByte_keeps_decoderInv g b hdecoder, fun hg hidle => ?_, fun hg => ?_⟩
  · rw [processByte_rdy, if_pos ⟨hg, (inFlight_eq_false_iff _).1 hidle⟩]
  · rw [processByte_rdy, if_neg fun hboth => Bool.noConfusion (hg.symm.trans hboth.1)]
    exact hunready hg

/-- The invariant does not speak of the read cursor. -/
theorem mfeInv_withRd {g : Bool} {m : Mfe n} (h : MfeInv g m) (c : Fin n) : MfeInv g { m with rd := c } :=
  ⟨h.running, h.length, h.index, h.canonical, h.bounded, h.first, h.second, h.third, h.ready, h.unready⟩

/-- The invariant does not speak of the semitone range. -/
theorem mfeInv_withSemitones {g : Bool} {m : Mfe n} (h : MfeInv g m) (r : BitVec 32) :
    MfeInv g { m with semitoneRange := r } :=
  ⟨h.running, h.length, h.index, h.canonical, h.bounded, h.first, h.second, h.third, h.ready, h.unready⟩

theorem dispatch_keeps_mfeInv {α : Type} (M : NumSystem α) {g : Bool} {m : Mfe n} (h : MfeInv g m) :
    MfeInv g (m.dispatch M g).1 := by
  rw [dispatch_eq]
  exact mfeInv_withRd h (m.limit g)

theorem mfeInv_reset (g : Bool) (hn : 0 < n) : MfeInv g (Mfe.reset n hn) := by
  have hbytes : ∀ (i : Fin n) p, PositionHolds p ((Mfe.reset n hn).slots.read (slotAddr i p)) := fun i p => by
    match p with
    | 0 => exact .inl rfl
    | 1 | 2 => exact (by decide : isStatus (0x00 : Byte) = false)
  exact (mfeInv_iff _ _).2 ⟨⟨.inl rfl, (by decide : (0 : Fin 3) = len 0x00), .inl le_rfl, Memory.empty_wf, List.forall_mem_nil _, hbytes⟩,
    fun _ _ => rfl, fun _ => rfl⟩

end Mfe

section Osc

variable {α : Type} (M : NumSystem α)

theorem nextSample_keeps_oscInv {o : Osc α} (h : OscInv M o) : OscInv M (o.nextSample M).1 := by
  simpa [OscInv] using h

theorem setFrequency_oscInv (o : Osc α) (fs hz : α) : OscInv M (o.setFrequency M fs hz) := .inl rfl

theorem oscInv_reset : OscInv M (Osc.reset M) := .inr ⟨rfl, rfl⟩

end Osc

/-- Settles O46. -/
theorem resetStateMeetsTheInvariant : Obligations.ResetStateMeetsTheInvariant :=
  ⟨mfeInv_reset Config.readyGating slotCount_pos, oscInv_reset Config.num⟩

/-- Every instruction keeps the invariant; those that write neither sub-block keep it as they find it. -/
theorem exec_keeps_machineInv {i : Instr} {s t : State} (hs : MachineInv s) (hexec : exec i s = .next t) : MachineInv t := by
  obtain ⟨hmfe, hosc⟩ := hs
  cases hword : encode i with
  | stream b =>
    obtain rfl := Host.Outcome.next.inj ((exec_of_encode_stream s hword).symm.trans hexec)
    exact ⟨processByte_keeps_mfeInv b hmfe, hosc⟩
  | command op arg =>
    cases i with
    | processByte b => cases hexec; exact ⟨processByte_keeps_mfeInv b hmfe, hosc⟩
    | dispatch => cases hexec; exact ⟨dispatch_keeps_mfeInv Config.num hmfe, hosc⟩
    | setSemitones n => cases hexec; exact ⟨mfeInv_withSemitones hmfe n, hosc⟩
    | nextSample => cases hexec; exact ⟨hmfe, nextSample_keeps_oscInv Config.num hosc⟩
    | setFrequency hz => cases hexec; exact ⟨hmfe, setFrequency_oscInv Config.num s.osc Config.sampleRate hz⟩
    | reset => cases hexec; exact resetStateMeetsTheInvariant
    | setMode _ | getMode | getSemitones | nop | reserved5 | reserved6 | reserved7 | reservedC | reservedD | reservedE =>
      cases hexec; exact ⟨hmfe, hosc⟩
    | _ => cases hword

/-- Settles O45: a step idles or runs an instruction, and the words waiting are no part of the invariant. -/
theorem stepKeepsTheInvariant : Obligations.StepKeepsTheInvariant := by
  intro s t hs hstep
  rcases step_next_cases hstep with ⟨_, rfl⟩ | ⟨p, rest, i, _, _, hexec⟩
  · exact hs
  · exact exec_keeps_machineInv (s := s.withInbox rest) hs hexec

end Sys2Proof.Proofs
end

section
/-! A message received whole, byte by byte: where it goes, what it leaves alone, and that it is ready (40_decoder.md R149, 20_memory.md R78). -/

namespace Sys2Proof.Proofs

open Sys2Proof.Machine Sys2Proof.Safety Sys2Proof.Laws

section Receive

variable {n : Nat}

/-! A slot after one of its bytes is written, and after a byte of another slot is. -/

theorem slot_writeSlot_zero (m : Mfe n) (i : Fin n) (v : Byte) : (m.writeSlot i 0 v).slot i = { m.slot i with b0 := v } := by
  simp [Mfe.slot, Memory.read_write, slotAddr_inj]

theorem slot_writeSlot_one (m : Mfe n) (i : Fin n) (v : Byte) : (m.writeSlot i 1 v).slot i = { m.slot i with b1 := v } := by
  simp [Mfe.slot, Memory.read_write, slotAddr_inj]

theorem slot_writeSlot_two (m : Mfe n) (i : Fin n) (v : Byte) : (m.writeSlot i 2 v).slot i = { m.slot i with b2 := v } := by
  simp [Mfe.slot, Memory.read_write, slotAddr_inj]

theorem slot_writeSlot_other (m : Mfe n) {i j : Fin n} (p : Fin 3) (v : Byte) (h : j ≠ i) :
    (m.writeSlot i p v).slot j = m.slot j := by
  simp [Mfe.slot, Memory.read_write, slotAddr_inj, h]

@[simp] theorem slot_updateReady (g : Bool) (m : Mfe n) (i : Fin n) : (m.updateReady g).slot i = m.slot i := by
  simp [Mfe.slot]

theorem slot_runningStatusOpen_same (m : Mfe n) (b : Byte) :
    (m.runningStatusOpen b).slot m.wr = { m.slot m.wr with b0 := m.runningStatus, b1 := b } := by
  show ((m.writeSlot m.wr 0 m.runningStatus).writeSlot m.wr 1 b).slot m.wr = _
  rw [slot_writeSlot_one, slot_writeSlot_zero]

theorem slot_runningStatusOpen_other (m : Mfe n) (b : Byte) {i : Fin n} (h : i ≠ m.wr) :
    (m.runningStatusOpen b).slot i = m.slot i := by
  show ((m.writeSlot m.wr 0 m.runningStatus).writeSlot m.wr 1 b).slot i = _
  rw [slot_writeSlot_other _ _ _ h, slot_writeSlot_other _ _ _ h]

/-- `m'` is `m` after the status byte of a message and the data bytes `got`, all of them in the slot that was at the write cursor. -/
structure Receiving (g : Bool) (b : Byte) (got : List Byte) (m m' : Mfe n) : Prop where
  runningStatus : m'.runningStatus = b
  expectedLen : m'.expectedLen = len b
  dataIdx : m'.dataIdx.val = got.length
  wr : m'.wr = cursorNext m.wr
  rd : m'.rd = m.rd
  semitoneRange : m'.semitoneRange = m.semitoneRange
  ready : g = true → m'.expectedLen ≤ m'.dataIdx → m'.rdy = m'.wr
  holds : Holds (b, got) (m'.slot m.wr)
  others : ∀ i, i ≠ m.wr → m'.slot i = m.slot i

/-- The ready cursor's update makes the newest message ready if it is complete (R78). -/
theorem updateReady_ready {g : Bool} (m : Mfe n) (hg : g = true) (hcomplete : (m.updateReady g).expectedLen ≤ (m.updateReady g).dataIdx) :
    (m.updateReady g).rdy = (m.updateReady g).wr := by
  rw [updateReady_expectedLen, updateReady_dataIdx] at hcomplete
  rw [updateReady_rdy, if_pos ⟨hg, hcomplete⟩, updateReady_wr]

theorem processByte_of_status {g : Bool} {b : Byte} (m : Mfe n) (hb : isStatus b = true) :
    m.processByte g b = (m.statusStep b (len b)).updateReady g := if_pos hb

theorem processByte_of_data {g : Bool} {b : Byte} (m : Mfe n) (hb : isStatus b = false) :
    m.processByte g b = (m.dataStep b).updateReady g := if_neg (by simp [hb])

/-- A status byte begins its message (R121). -/
theorem receiving_status (g : Bool) (m : Mfe n) {b : Byte} (hb : isStatus b = true) :
    Receiving g b [] m (m.processByte g b) := by
  rw [processByte_of_status m hb]
  refine ⟨by simp, by simp, by simp, by simp, by simp, by simp, updateReady_ready _, ?_, fun i hi => ?_⟩
  · rw [slot_updateReady]
    show Holds (b, []) ((m.writeSlot m.wr 0 b).slot m.wr)
    rw [slot_writeSlot_zero]
    exact ⟨rfl, by simp, by simp⟩
  · rw [slot_updateReady]
    exact slot_writeSlot_other m 0 b hi

/-- A data byte after a complete message begins a message of the running status (R123). -/
theorem receiving_runningStatus (g : Bool) {m : Mfe n} {d : Byte} (hd : isStatus d = false) (hidle : m.expectedLen ≤ m.dataIdx)
    (hlen : m.expectedLen = len m.runningStatus) :
    Receiving g m.runningStatus [d] m (m.processByte g d) := by
  rw [processByte_of_data m hd, dataStep_of_complete d hidle]
  refine ⟨by simp, by simp [hlen], by simp, by simp, by simp, by simp, updateReady_ready _, ?_, fun i hi => ?_⟩
  · rw [slot_updateReady, slot_runningStatusOpen_same]
    exact ⟨rfl, by simp, by simp⟩
  · rw [slot_updateReady, slot_runningStatusOpen_other m d hi]

/-- The slot of a message in flight after the data byte at its next position (R122). -/
theorem holds_append {m : Mfe n} {i : Fin n} {b d : Byte} {got : List Byte} {idx : Fin 3} (h : Holds (b, got) (m.slot i))
    (hidx : idx.val = got.length + 1) : Holds (b, got ++ [d]) ((m.writeSlot i idx d).slot i) := by
  obtain ⟨h0, h1, h2⟩ := h
  match got, hidx with
  | [], hidx =>
    obtain rfl : idx = 1 := Fin.ext hidx
    rw [slot_writeSlot_one]
    exact ⟨h0, by simp, by simp⟩
  | [x], hidx =>
    obtain rfl : idx = 2 := Fin.ext hidx
    rw [slot_writeSlot_two]
    exact ⟨h0, h1, by simp⟩
  | _ :: _ :: _, hidx => exact absurd hidx (by have := idx.isLt; simp; omega)

/-- A data byte of a message in flight goes on with it (R122). -/
theorem Receiving.data {g : Bool} {b d : Byte} {got : List Byte} {m m' : Mfe n} (h : Receiving g b got m m')
    (hflight : got.length < (len b).val) (hd : isStatus d = false) : Receiving g b (got ++ [d]) m (m'.processByte g d) := by
  have hlt : m'.dataIdx < m'.expectedLen := Fin.lt_def.2 (by rw [h.dataIdx, h.expectedLen]; exact hflight)
  obtain ⟨idx, hidx, _, hstep⟩ := dataStep_of_inFlight d hlt
  have hslot : cursorPrev m'.wr = m.wr := by rw [h.wr, cursorPrev_next]
  rw [hslot] at hstep
  rw [processByte_of_data m' hd, hstep]
  refine ⟨by simp [h.runningStatus], by simp [h.expectedLen], by simp [hidx, h.dataIdx], by simp [h.wr], by simp [h.rd],
    by simp [h.semitoneRange], updateReady_ready _, ?_, fun i hi => ?_⟩
  · rw [slot_updateReady]
    exact holds_append h.holds (hidx.trans (by rw [h.dataIdx]))
  · rw [slot_updateReady]
    exact (slot_writeSlot_other m' idx d hi).trans (h.others i hi)

/-- The rest of a message's data bytes complete it. -/
theorem Receiving.rest {g : Bool} {b : Byte} {got : List Byte} {m m' : Mfe n} (h : Receiving g b got m m') (ds : List Byte)
    (hlen : (got ++ ds).length ≤ (len b).val) (hds : ∀ d ∈ ds, isStatus d = false) :
    Receiving g b (got ++ ds) m (ds.foldl (fun f d => f.processByte g d) m') := by
  induction ds generalizing got m' with
  | nil => simpa using h
  | cons d ds ih =>
    have hflight : got.length < (len b).val := by simp at hlen; omega
    have hnext := ih (h.data hflight (hds d List.mem_cons_self)) (by simpa using hlen) fun e he => hds e (List.mem_cons_of_mem d he)
    simpa using hnext

/-- A message with its status byte, received whole from any state (R149). -/
theorem receiving_explicit (g : Bool) (m : Mfe n) {b : Byte} {ds : List Byte} (hmsg : Complete (b, ds)) :
    Receiving g b ds m ((b :: ds).foldl (fun f d => f.processByte g d) m) := by
  obtain ⟨hb, hlen, hds⟩ := hmsg
  exact (receiving_status g m hb).rest ds hlen.le hds

/-- What a front end that can go on under running status is like. -/
theorem resumable_eq_some_iff (m : Mfe n) (b : Byte) :
    resumable m = some b ↔ m.runningStatus = b ∧ m.expectedLen = len b ∧ m.expectedLen ≤ m.dataIdx := by
  rw [← inFlight_eq_false_iff]
  unfold resumable
  split_ifs with h
  · rw [Option.some_inj]
    exact ⟨fun hb => ⟨hb, hb ▸ h.2, h.1⟩, fun hb => hb.1⟩
  · exact ⟨fun hb => (nomatch hb), fun ⟨hb, hlen, hidle⟩ => absurd ⟨hidle, hb ▸ hlen⟩ h⟩

/-- A message of the running status, received whole (R149). -/
theorem receiving_compressed (g : Bool) {m : Mfe n} {b : Byte} {ds : List Byte} (hresume : resumable m = some b)
    (hsome : (len b).val ≠ 0) (hmsg : Complete (b, ds)) :
    Receiving g b ds m (ds.foldl (fun f d => f.processByte g d) m) := by
  obtain ⟨rfl, hexpected, hidle⟩ := (resumable_eq_some_iff m b).1 hresume
  obtain ⟨_, hlen, hds⟩ := hmsg
  cases ds with
  | nil => exact absurd hlen.symm hsome
  | cons d ds =>
    exact (receiving_runningStatus g (hds d List.mem_cons_self) hidle hexpected).rest ds hlen.le
      fun e he => hds e (List.mem_cons_of_mem d he)

/-- After a complete message its status may be continued. -/
theorem Receiving.resumable {g : Bool} {b : Byte} {ds : List Byte} {m m' : Mfe n} (h : Receiving g b ds m m')
    (hlen : ds.length = (len b).val) : Safety.resumable m' = some b :=
  (resumable_eq_some_iff m' b).2 ⟨h.runningStatus, h.expectedLen, Fin.le_def.2 (by rw [h.expectedLen, h.dataIdx, hlen])⟩

/-- After a complete message all messages are ready: with either setting the next drain goes to the write cursor (R78, R79). -/
theorem Receiving.limit {g : Bool} {b : Byte} {ds : List Byte} {m m' : Mfe n} (h : Receiving g b ds m m')
    (hlen : ds.length = (len b).val) : m'.limit g = m'.wr := by
  cases g with
  | false => rfl
  | true => exact h.ready rfl (Fin.le_def.2 (by rw [h.expectedLen, h.dataIdx, hlen]))

end Receive

end Sys2Proof.Proofs
end

section
/-! What each drain of a well-formed stream delivers (20_memory.md R72, R79, 40_decoder.md R149). -/

namespace Sys2Proof.Proofs

open Sys2Proof.Machine Sys2Proof.Safety Sys2Proof.Laws

section Deliver

variable {n : Nat}

/-- The front end has received the messages `pending` since the last drain: the write cursor is as many slots on as they are, and the last `n` of
them are in their slots. -/
structure Buffers (g : Bool) (pending : List (Byte × List Byte)) (m : Mfe n) : Prop where
  wr : m.wr = cursorAdd m.rd pending.length
  limit : m.limit g = m.wr
  held : ∀ i (hi : i < pending.length), pending.length ≤ i + n → Holds pending[i] (m.slot (cursorAdd m.rd i))

/-- An empty buffer has no message pending. -/
theorem buffers_nil {g : Bool} {m : Mfe n} (hempty : m.rd = m.wr) (hlimit : m.limit g = m.wr) : Buffers g [] m :=
  ⟨by simp [hempty], hlimit, fun i hi => absurd hi (Nat.not_lt_zero i)⟩

theorem cursorNext_cursorAdd (c : Fin n) (k : Nat) : cursorNext (cursorAdd c k) = cursorAdd c (k + 1) :=
  Fin.ext (by simp [Nat.add_assoc])

/-- Cursors less than a round apart are different slots. -/
theorem cursorAdd_ne (c : Fin n) {i k : Nat} (hlt : i < k) (hnear : k < i + n) : cursorAdd c i ≠ cursorAdd c k := by
  intro h
  have hmod : (c.val + i) % n = (c.val + k) % n := congrArg Fin.val h
  have hdvd : n ∣ k - i := by
    have := (Nat.modEq_iff_dvd' (by omega)).1 hmod
    rwa [Nat.add_sub_add_left] at this
  exact absurd (Nat.le_of_dvd (by omega) hdvd) (by omega)

/-- One more message: it is in the slot at the write cursor, and the `n - 1` before it are where they were. -/
theorem Buffers.append {g : Bool} {pending : List (Byte × List Byte)} {m m' : Mfe n} {b : Byte} {ds : List Byte}
    (h : Buffers g pending m) (hr : Receiving g b ds m m') (hlen : ds.length = (len b).val) :
    Buffers g (pending ++ [(b, ds)]) m' := by
  refine ⟨?_, hr.limit hlen, fun i hi hnear => ?_⟩
  · rw [hr.wr, hr.rd, h.wr, cursorNext_cursorAdd, List.length_append]
    rfl
  · rw [hr.rd]
    rw [List.length_append, List.length_singleton] at hi hnear
    rcases Nat.lt_succ_iff_lt_or_eq.1 hi with hold | rfl
    · rw [List.getElem_append_left hold, hr.others _ (h.wr ▸ cursorAdd_ne m.rd hold (by omega))]
      exact h.held i hold (by omega)
    · rw [List.getElem_concat_length rfl, ← h.wr]
      exact hr.holds

/-- As many messages are available as are pending, modulo the capacity (R70, R72). -/
theorem Buffers.avail {g : Bool} {pending : List (Byte × List Byte)} {m : Mfe n} (h : Buffers g pending m) :
    m.avail g = pending.length % n := by
  have hrd := m.rd.isLt
  rw [Mfe.avail, h.limit, cursorDistance, h.wr, cursorAdd_val, Nat.mod_add_mod,
    show m.rd.val + pending.length + (n - m.rd.val) = pending.length + n by omega, Nat.add_mod_right]

/-- A whole number of rounds leads back to the same slot. -/
theorem cursorAdd_of_mod_eq (c : Fin n) {i j : Nat} (h : i % n = j % n) : cursorAdd c i = cursorAdd c j :=
  Fin.ext (Nat.ModEq.add_left c.val h)

/-- The slots a drain reads hold the `k mod n` most recent of the `k` messages pending, in arrival order (R72). -/
theorem Buffers.holds {g : Bool} {pending : List (Byte × List Byte)} {m : Mfe n} (h : Buffers g pending m) :
    List.Forall₂ Holds (pending.drop (pending.length - pending.length % n))
      ((List.range (m.avail g)).map fun j => m.slot (cursorAdd m.rd j)) := by
  have hle : pending.length % n ≤ pending.length := Nat.mod_le _ _
  have hlt : pending.length % n < n := Nat.mod_lt _ (Nat.lt_of_le_of_lt (Nat.zero_le _) m.rd.isLt)
  rw [List.forall₂_iff_get, h.avail]
  refine ⟨by simp; omega, fun j hj hj' => ?_⟩
  simp only [List.get_eq_getElem, List.getElem_drop, List.getElem_map, List.getElem_range]
  have hj : j < pending.length % n := by simpa using hj'
  have hround : (pending.length - pending.length % n + j) % n = j % n := by
    have hrounds : pending.length - pending.length % n = n * (pending.length / n) := by
      have := Nat.div_add_mod pending.length n
      omega
    rw [hrounds, Nat.mul_add_mod]
  rw [← cursorAdd_of_mod_eq m.rd hround]
  exact h.held _ (by omega) (by omega)

/-- A drain empties the buffer and changes neither the decoder's registers nor the semitone range (R170). -/
theorem buffers_dispatch {α : Type} (M : NumSystem α) {g : Bool} {pending : List (Byte × List Byte)} {m : Mfe n}
    (h : Buffers g pending m) : Buffers g [] (m.dispatch M g).1 := by
  rw [dispatch_eq]
  exact buffers_nil h.limit h.limit

/-- The list a drain returns, slot by slot (R170). -/
theorem dispatch_events {α : Type} (M : NumSystem α) (g : Bool) (m : Mfe n) :
    (m.dispatch M g).2 =
      ((List.range (m.avail g)).map fun j => m.slot (cursorAdd m.rd j)).flatMap (messageEvents M m.semitoneRange) := by
  rw [dispatch_eq, List.flatMap_map]
  rfl

/-- A drain is well-formed anywhere between messages. -/
theorem wellFormedTraffic_drain (r : Option Byte) (ts : List Traffic) :
    WellFormedTraffic r (.drain :: ts) ↔ WellFormedTraffic r ts := by
  cases r <;> rfl

/-- Each drain of a well-formed stream delivers the `k mod n` most recent of the `k` messages since the one before it. -/
theorem takeTraffic_delivers {α : Type} (M : NumSystem α) (g : Bool) (ts : List Traffic) {m : Mfe n}
    {pending : List (Byte × List Byte)} (hbuf : Buffers g pending m) (hts : WellFormedTraffic (resumable m) ts) :
    ∃ drains, (takeTraffic M g ts m).2 = drains.map (fun slots => slots.flatMap (messageEvents M m.semitoneRange)) ∧
      List.Forall₂ (List.Forall₂ Holds) (deliveries n m.runningStatus pending ts) drains := by
  induction ts generalizing m pending with
  | nil => exact ⟨[], rfl, .nil⟩
  | cons t ts ih =>
    cases t with
    | explicit b ds =>
      obtain ⟨hmsg, hts⟩ := hts
      have hr := receiving_explicit g m hmsg
      rw [← hr.resumable hmsg.2.1] at hts
      have hrest := ih (hbuf.append hr hmsg.2.1) hts
      rwa [hr.semitoneRange, hr.runningStatus] at hrest
    | compressed ds =>
      cases hresume : resumable m with
      | none => rw [hresume] at hts; exact hts.elim
      | some b =>
        rw [hresume] at hts
        obtain ⟨hsome, hmsg, hts⟩ := hts
        have hr := receiving_compressed g hresume hsome hmsg
        rw [← hr.resumable hmsg.2.1] at hts
        have hrest := ih (hbuf.append hr hmsg.2.1) hts
        rw [hr.semitoneRange, hr.runningStatus] at hrest
        obtain ⟨hrunning, _, _⟩ := (resumable_eq_some_iff m b).1 hresume
        subst hrunning
        exact hrest
    | drain =>
      have hkeeps : resumable (m.dispatch M g).1 = resumable m ∧ (m.dispatch M g).1.semitoneRange = m.semitoneRange ∧
          (m.dispatch M g).1.runningStatus = m.runningStatus := by
        rw [dispatch_eq]
        exact ⟨rfl, rfl, rfl⟩
      obtain ⟨hresumable, hrange, hrunning⟩ := hkeeps
      obtain ⟨drains, hevents, hholds⟩ := ih (buffers_dispatch M hbuf)
        (hresumable ▸ (wellFormedTraffic_drain _ ts).1 hts)
      rw [hrange] at hevents
      rw [hrunning] at hholds
      exact ⟨_ :: drains, congrArg₂ List.cons (dispatch_events M g m) hevents, .cons hbuf.holds hholds⟩

end Deliver

/-! ### On the machine -/

/-- The bytes of a stream are received one after another (20_memory.md R76). -/
theorem runSteps_stream (bs : List Byte) (k : Nat) {s : State} {rest : List Packet}
    (hinbox : s.inbox = bs.map Packet.stream ++ rest) :
    runSteps (bs.length + k) s =
      runSteps k ((s.withMfe (bs.foldl (fun f d => f.processByte Config.readyGating d) s.mfe)).withInbox rest) := by
  induction bs generalizing s with
  | nil =>
    obtain rfl : s.inbox = rest := hinbox
    rw [List.length_nil, Nat.zero_add]
    rfl
  | cons b bs ih =>
    have hstep : step s = exec (decodeByte b) (s.withInbox (bs.map Packet.stream ++ rest)) :=
      step_of_inbox_cons hinbox rfl
    rw [exec_decodeByte] at hstep
    rw [List.length_cons, Nat.add_right_comm, runSteps_next _ hstep, ih rfl]
    rfl

/-- A waiting `DISPATCH` drains the buffer. -/
theorem runSteps_dispatch (k : Nat) {s : State} {rest : List Packet} (hinbox : s.inbox = Packet.command 0x2 0 :: rest) :
    runSteps (k + 1) s = runSteps k (((s.withInbox rest).withMfe (s.mfe.dispatch Config.num Config.readyGating).1).emit
      (.events (s.mfe.dispatch Config.num Config.readyGating).2)) :=
  runSteps_next k (step_of_inbox_cons hinbox rfl)

/-- The machine takes the waiting words of a stream as its front end takes the traffic, and appends one result per drain. -/
theorem runSteps_traffic (ts : List Traffic) {s : State} (hinbox : s.inbox = ts.flatMap Traffic.words) :
    runSteps s.inbox.length s = .next
      { s with
        mfe := (takeTraffic Config.num Config.readyGating ts s.mfe).1
        inbox := []
        outputs := s.outputs ++ (takeTraffic Config.num Config.readyGating ts s.mfe).2.map .events } := by
  induction ts generalizing s with
  | nil =>
    obtain ⟨mfe, osc, inbox, outputs⟩ := s
    obtain rfl : inbox = [] := hinbox
    simp [takeTraffic]
  | cons t ts ih =>
    cases t with
    | explicit b ds =>
      have hinbox' : s.inbox = (b :: ds).map Packet.stream ++ ts.flatMap Traffic.words := hinbox
      rw [hinbox', List.length_append, List.length_map, runSteps_stream _ _ hinbox']
      exact ih (s := (s.withMfe _).withInbox _) rfl
    | compressed ds =>
      have hinbox' : s.inbox = ds.map Packet.stream ++ ts.flatMap Traffic.words := hinbox
      rw [hinbox', List.length_append, List.length_map, runSteps_stream _ _ hinbox']
      exact ih (s := (s.withMfe _).withInbox _) rfl
    | drain =>
      have hinbox' : s.inbox = Packet.command 0x2 0 :: ts.flatMap Traffic.words := hinbox
      rw [hinbox', List.length_cons, runSteps_dispatch _ hinbox']
      refine (ih (s := ((s.withInbox _).withMfe _).emit _) rfl).trans ?_
      simp [takeTraffic]

/-- Settles O12: the machine takes the traffic as its front end does, whose drains deliver what is pending. -/
theorem runningStatusRepeatsTheStatus : Obligations.RunningStatusRepeatsTheStatus := by
  intro s ts hts hempty hready hinbox
  have hlimit : s.mfe.limit Config.readyGating = s.mfe.wr := by
    unfold Mfe.limit
    split_ifs with hg
    · exact hready hg
    · rfl
  obtain ⟨drains, hevents, hholds⟩ :=
    takeTraffic_delivers Config.num Config.readyGating ts (buffers_nil hempty hlimit) hts
  refine ⟨_, drains, runSteps_traffic ts hinbox, rfl, ?_, hholds⟩
  rw [hevents, List.map_map]
  rfl

/-- Messages with their status bytes, and one drain after the last. -/
def explicitTraffic (ms : List (Byte × List Byte)) : List Traffic :=
  ms.map (fun msg => .explicit msg.1 msg.2) ++ [.drain]

@[simp] theorem explicitTraffic_nil : explicitTraffic [] = [.drain] := rfl

@[simp] theorem explicitTraffic_cons (msg : Byte × List Byte) (ms : List (Byte × List Byte)) :
    explicitTraffic (msg :: ms) = .explicit msg.1 msg.2 :: explicitTraffic ms := rfl

/-- Its words: the bytes of the messages, then `DISPATCH`. -/
theorem words_explicitTraffic (ms : List (Byte × List Byte)) :
    (explicitTraffic ms).flatMap Traffic.words = (ms.flatMap messageBytes).map Packet.stream ++ [.command 0x2 0] := by
  induction ms with
  | nil => rfl
  | cons msg ms ih => simp [Traffic.words, messageBytes, ih]

/-- The drain is to deliver from all the messages before it. -/
theorem deliveries_explicitTraffic (n : Nat) (running : Byte) (pending ms : List (Byte × List Byte)) :
    deliveries n running pending (explicitTraffic ms) =
      [(pending ++ ms).drop ((pending ++ ms).length - (pending ++ ms).length % n)] := by
  induction ms generalizing running pending with
  | nil => simp [deliveries]
  | cons msg ms ih =>
    rw [explicitTraffic_cons, deliveries, ih, List.append_assoc]
    rfl

/-- Complete messages are a well-formed stream under any running status. -/
theorem wellFormedTraffic_explicitTraffic (r : Option Byte) {ms : List (Byte × List Byte)} (hms : ∀ msg ∈ ms, Complete msg) :
    WellFormedTraffic r (explicitTraffic ms) := by
  induction ms generalizing r with
  | nil => cases r <;> trivial
  | cons msg ms ih =>
    have hrest := ih (some msg.1) fun e he => hms e (List.mem_cons_of_mem msg he)
    cases r <;> exact ⟨hms msg List.mem_cons_self, hrest⟩

/-- Settles O11: it is O12 for messages with their status bytes and one drain at the end. -/
theorem completeMessagesDeliveredInOrder : Obligations.CompleteMessagesDeliveredInOrder := by
  intro s ms hms hempty hready hinbox
  obtain ⟨t, drains, hrun, _, houtputs, hholds⟩ :=
    runningStatusRepeatsTheStatus s (explicitTraffic ms) (wellFormedTraffic_explicitTraffic _ hms) hempty hready
      (hinbox.trans (words_explicitTraffic ms).symm)
  rw [deliveries_explicitTraffic, List.nil_append] at hholds
  cases hholds with
  | cons hslots hnil =>
    cases hnil
    refine ⟨t, _, hrun, houtputs, ?_, hslots⟩
    have hle : ms.length % Config.slotCount ≤ ms.length := Nat.mod_le _ _
    rw [← hslots.length_eq, List.length_drop, Nat.sub_sub_self hle]

/-! ### Both settings of the option -/

section Gatings

variable {n : Nat}

/-- The second front end is the first but for its ready cursor. -/
def SameButReady (m m' : Mfe n) : Prop := ∃ c, m' = { m with rdy := c }

theorem dataStep_sameButReady {m m' : Mfe n} (h : SameButReady m m') (b : Byte) :
    SameButReady (m.dataStep b) (m'.dataStep b) := by
  obtain ⟨c, rfl⟩ := h
  refine ⟨c, ?_⟩
  simp only [Mfe.dataStep]
  split_ifs <;> rfl

theorem updateReady_sameButReady {m m' : Mfe n} (h : SameButReady m m') :
    SameButReady (m.updateReady false) (m'.updateReady true) := by
  obtain ⟨c, rfl⟩ := h
  unfold Mfe.updateReady
  rw [if_neg fun hboth => Bool.noConfusion hboth.1]
  split_ifs
  · exact ⟨m.wr, rfl⟩
  · exact ⟨c, rfl⟩

/-- With the option a byte does what it does without it, but for the ready cursor (R79). -/
theorem processByte_sameButReady {m m' : Mfe n} (h : SameButReady m m') (b : Byte) :
    SameButReady (m.processByte false b) (m'.processByte true b) := by
  cases hb : isStatus b with
  | true =>
    obtain ⟨c, rfl⟩ := h
    rw [processByte_of_status _ hb, processByte_of_status _ hb]
    exact updateReady_sameButReady ⟨c, rfl⟩
  | false =>
    rw [processByte_of_data _ hb, processByte_of_data _ hb]
    exact updateReady_sameButReady (dataStep_sameButReady h b)

theorem foldl_processByte_sameButReady {m m' : Mfe n} (h : SameButReady m m') (bs : List Byte) :
    SameButReady (bs.foldl (fun f d => f.processByte false d) m) (bs.foldl (fun f d => f.processByte true d) m') := by
  induction bs generalizing m m' with
  | nil => exact h
  | cons b bs ih => exact ih (processByte_sameButReady h b)

theorem SameButReady.eq_of_ready {m m' : Mfe n} (h : SameButReady m m') (hready : m'.rdy = m'.wr) :
    m' = { m with rdy := m.wr } := by
  obtain ⟨c, rfl⟩ := h
  obtain rfl : c = m.wr := hready
  rfl

/-- After a complete message the ready cursor of the option is the write cursor, so the other setting tells all there is (R78). -/
theorem foldl_processByte_of_complete {m m₀ : Mfe n} {bs : List Byte} {b : Byte} {ds : List Byte}
    (hr : Receiving true b ds m₀ (bs.foldl (fun f d => f.processByte true d) { m with rdy := m.wr }))
    (hlen : ds.length = (len b).val) :
    bs.foldl (fun f d => f.processByte true d) { m with rdy := m.wr } =
      { bs.foldl (fun f d => f.processByte false d) m with rdy := (bs.foldl (fun f d => f.processByte false d) m).wr } :=
  (foldl_processByte_sameButReady ⟨m.wr, rfl⟩ bs).eq_of_ready (hr.limit hlen)

/-- With everything ready both settings have the same limit, so a drain does the same (R170). -/
theorem dispatch_of_ready {α : Type} (M : NumSystem α) (m : Mfe n) :
    ({ m with rdy := m.wr } : Mfe n).dispatch M true =
      ({ (m.dispatch M false).1 with rdy := (m.dispatch M false).1.wr }, (m.dispatch M false).2) := by
  rw [dispatch_eq, dispatch_eq]
  rfl

/-- Traffic taken with the option and without it (R79). -/
theorem takeTraffic_gatings {α : Type} (M : NumSystem α) (ts : List Traffic) {m : Mfe n}
    (hts : WellFormedTraffic (resumable m) ts) :
    (takeTraffic M true ts { m with rdy := m.wr }).2 = (takeTraffic M false ts m).2 ∧
      (takeTraffic M true ts { m with rdy := m.wr }).1 =
        { (takeTraffic M false ts m).1 with rdy := (takeTraffic M false ts m).1.wr } := by
  induction ts generalizing m with
  | nil => exact ⟨rfl, rfl⟩
  | cons t ts ih =>
    cases t with
    | explicit b ds =>
      obtain ⟨hmsg, hts⟩ := hts
      rw [takeTraffic, takeTraffic, foldl_processByte_of_complete (receiving_explicit true _ hmsg) hmsg.2.1]
      exact ih ((receiving_explicit false m hmsg).resumable hmsg.2.1 ▸ hts)
    | compressed ds =>
      cases hresume : resumable m with
      | none => rw [hresume] at hts; exact hts.elim
      | some b =>
        rw [hresume] at hts
        obtain ⟨hsome, hmsg, hts⟩ := hts
        have hgated : resumable { m with rdy := m.wr } = some b := hresume
        rw [takeTraffic, takeTraffic, foldl_processByte_of_complete (receiving_compressed true hgated hsome hmsg) hmsg.2.1]
        exact ih ((receiving_compressed false hresume hsome hmsg).resumable hmsg.2.1 ▸ hts)
    | drain =>
      have hresumable : resumable (m.dispatch M false).1 = resumable m := by rw [dispatch_eq]; rfl
      obtain ⟨hevents, hfront⟩ := ih (hresumable ▸ (wellFormedTraffic_drain _ ts).1 hts)
      rw [takeTraffic, takeTraffic, dispatch_of_ready]
      exact ⟨congrArg (List.cons _) hevents, hfront⟩

/-- Settles O13. -/
theorem bothGatingsAgreeOnCompleteMessages : Obligations.BothGatingsAgreeOnCompleteMessages := fun _ _ M _ ts hts =>
  takeTraffic_gatings M ts hts

end Gatings

end Sys2Proof.Proofs
end

section
/-! The bend factor over the real numbers (41_dispatcher.md R174): a power of two whose exponent runs over `±semitoneRange / 12`. -/

namespace Sys2Proof.Proofs

open Sys2Proof.Machine Sys2Proof.Safety Sys2Proof.Laws

/-- `normalized` over the reals (R174). -/
theorem real_bendNormalized (m : Slot) : bendNormalized NumSystem.real m = (m.value14.toNat : ℝ) / 16383 * 2 - 1 := by
  simp [bendNormalized]

/-- The factor over the reals (R174). -/
theorem real_bendFactor (semitones : BitVec 32) (m : Slot) :
    bendFactor NumSystem.real semitones m = (2 : ℝ) ^ (bendNormalized NumSystem.real m * (semitones.toNat : ℝ) / 12) := by
  simp [bendFactor]

/-- The largest bend value is 16383. -/
theorem value14_le (m : Slot) : (m.value14.toNat : ℝ) ≤ 16383 := by
  exact_mod_cast Nat.le_of_lt_succ m.value14.isLt

theorem real_bendNormalized_bounds (m : Slot) :
    -1 ≤ bendNormalized NumSystem.real m ∧ bendNormalized NumSystem.real m ≤ 1 := by
  have hle := value14_le m
  have hpos : (0 : ℝ) ≤ m.value14.toNat := Nat.cast_nonneg _
  rw [real_bendNormalized]
  constructor <;> linarith

/-- 16383 is odd, so no bend value is exactly in the middle. -/
theorem real_bendNormalized_ne_zero (m : Slot) : bendNormalized NumSystem.real m ≠ 0 := by
  intro h
  rw [real_bendNormalized] at h
  have hmid : (m.value14.toNat : ℝ) * 2 = 16383 := by linarith
  have : m.value14.toNat * 2 = 16383 := by exact_mod_cast hmid
  omega

/-- The factor lies between the powers at `normalized = ±1`. -/
theorem real_bendFactor_bounds (semitones : BitVec 32) (m : Slot) :
    (2 : ℝ) ^ (-(semitones.toNat : ℝ) / 12) ≤ bendFactor NumSystem.real semitones m ∧
      bendFactor NumSystem.real semitones m ≤ (2 : ℝ) ^ ((semitones.toNat : ℝ) / 12) := by
  obtain ⟨hlow, hhigh⟩ := real_bendNormalized_bounds m
  have hrange : (0 : ℝ) ≤ semitones.toNat := Nat.cast_nonneg _
  rw [real_bendFactor, Real.rpow_le_rpow_left_iff one_lt_two, Real.rpow_le_rpow_left_iff one_lt_two]
  constructor <;> gcongr <;> nlinarith

/-- The factor is 1 just when the exponent is 0. -/
theorem real_bendFactor_eq_one_iff (semitones : BitVec 32) (m : Slot) :
    bendFactor NumSystem.real semitones m = 1 ↔ semitones = 0 := by
  calc bendFactor NumSystem.real semitones m = 1
    _ ↔ bendNormalized NumSystem.real m * (semitones.toNat : ℝ) / 12 = 0 := by
      rw [real_bendFactor, ← Real.rpow_zero 2, Real.rpow_right_inj two_pos (by norm_num)]
    _ ↔ semitones.toNat = 0 := by simp [real_bendNormalized_ne_zero]
    _ ↔ semitones = 0 := BitVec.toNat_inj (y := 0#32)

/-- Settles O20. -/
theorem realBendFactorRange : Obligations.RealBendFactorRange := by
  intro semitones m
  obtain ⟨hlow, hhigh⟩ := real_bendFactor_bounds semitones m
  refine ⟨?_, hlow, hhigh, fun hmin => ?_, fun hmax => ?_, real_bendFactor_eq_one_iff semitones m⟩
  · rw [real_bendFactor]
    exact Real.rpow_pos_of_pos two_pos _
  · rw [real_bendFactor, real_bendNormalized, hmin]
    norm_num
  · rw [real_bendFactor, real_bendNormalized, hmax]
    norm_num

end Sys2Proof.Proofs
end

section
/-! The oscillator over the real numbers: the correction, the wraps and the coefficients (42_oscillator.md R203, R209, R210). -/

namespace Sys2Proof.Proofs

open Sys2Proof.Machine Sys2Proof.Safety Sys2Proof.Laws

/-! ### The correction: three windows (R203) -/

theorem real_blep_before {t dt : ℝ} (h : t < dt) : blep NumSystem.real t dt = -(1 - t / dt) ^ 2 := by
  rw [blep, if_pos (real_lt .. |>.2 h)]
  simp only [real_sub, real_mul, real_div, real_ofNat]
  ring

theorem real_blep_after {t dt : ℝ} (h : dt ≤ t) (hafter : 1 - dt < t) :
    blep NumSystem.real t dt = (1 + (t - 1) / dt) ^ 2 := by
  have hlt : NumSystem.real.lt (NumSystem.real.sub (NumSystem.real.ofNat 1) dt) t = true := by simpa using hafter
  rw [blep, if_neg (by simpa using h), if_pos hlt]
  simp only [real_add, real_sub, real_mul, real_div, real_ofNat]
  ring

theorem real_blep_between {t dt : ℝ} (h : dt ≤ t) (hbetween : t ≤ 1 - dt) : blep NumSystem.real t dt = 0 := by
  rw [blep, if_neg (by simpa using h), if_neg (by simpa using hbetween)]
  simp

/-- Before `dt` the correction runs from −1 up to 0. -/
theorem real_blep_before_bounds {t dt : ℝ} (hdt : 0 < dt) (ht : 0 ≤ t) (h : t < dt) :
    -1 ≤ blep NumSystem.real t dt ∧ blep NumSystem.real t dt ≤ 0 := by
  have hx0 : 0 ≤ t / dt := div_nonneg ht hdt.le
  have hx1 : t / dt < 1 := (div_lt_one hdt).2 h
  rw [real_blep_before h]
  constructor <;> nlinarith

/-- After `1 - dt` the correction runs from 0 up to 1. -/
theorem real_blep_after_bounds {t dt : ℝ} (hdt : 0 < dt) (ht : t ≤ 1) (h : dt ≤ t) (hafter : 1 - dt < t) :
    0 ≤ blep NumSystem.real t dt ∧ blep NumSystem.real t dt ≤ 1 := by
  have hx0 : (t - 1) / dt ≤ 0 := div_nonpos_of_nonpos_of_nonneg (by linarith) hdt.le
  have hx1 : -1 < (t - 1) / dt := (lt_div_iff₀ hdt).2 (by linarith)
  rw [real_blep_after h hafter]
  constructor <;> nlinarith

/-- Within the turn the correction is at most 1 in size. -/
theorem real_abs_blep_le_one {t dt : ℝ} (hdt : 0 < dt) (ht0 : 0 ≤ t) (ht1 : t ≤ 1) : |blep NumSystem.real t dt| ≤ 1 := by
  rw [abs_le]
  rcases lt_or_ge t dt with h | h
  · obtain ⟨hlow, hhigh⟩ := real_blep_before_bounds hdt ht0 h
    exact ⟨hlow, hhigh.trans zero_le_one⟩
  · rcases lt_or_ge (1 - dt) t with hafter | hbetween
    · obtain ⟨hlow, hhigh⟩ := real_blep_after_bounds hdt ht1 h hafter
      exact ⟨by linarith, hhigh⟩
    · rw [real_blep_between h hbetween]
      norm_num

/-- At increment 0 there is no correction within the turn, so no quotient by zero is used (R214). -/
theorem real_blep_zero {t : ℝ} (ht0 : 0 ≤ t) (ht1 : t ≤ 1) : blep NumSystem.real t 0 = 0 :=
  real_blep_between ht0 (by linarith)

/-- Settles O31. -/
theorem realBlepClosedForms : Obligations.RealBlepClosedForms :=
  ⟨fun _ _ hdt => ⟨real_blep_before, real_blep_after, real_blep_between, real_abs_blep_le_one hdt⟩, fun _ => real_blep_zero⟩

/-! ### The coefficients of a frequency (R210) -/

theorem real_feedback (fs hz : ℝ) : feedback NumSystem.real fs hz = Real.exp (-(Real.pi * |hz|) / fs) := by
  simp only [feedback, negTwoPi, real_exp, real_div, real_mul, real_neg, real_twoPi, real_abs, real_ofNat]
  congr 1
  ring

theorem real_feedback_pos (fs hz : ℝ) : 0 < feedback NumSystem.real fs hz := by
  rw [real_feedback]
  exact Real.exp_pos _

theorem real_feedback_le_one {fs : ℝ} (hfs : 0 < fs) (hz : ℝ) : feedback NumSystem.real fs hz ≤ 1 := by
  rw [real_feedback, Real.exp_le_one_iff, neg_div]
  exact neg_nonpos.2 (by positivity)

/-- The feedback is 1 only at 0 Hz. -/
theorem real_feedback_eq_one_iff {fs : ℝ} (hfs : 0 < fs) (hz : ℝ) : feedback NumSystem.real fs hz = 1 ↔ hz = 0 := by
  rw [real_feedback, Real.exp_eq_one_iff]
  simp [hfs.ne', Real.pi_ne_zero]

/-- The feedback does not see the sign of the frequency. -/
theorem real_feedback_neg (fs hz : ℝ) : feedback NumSystem.real fs (-hz) = feedback NumSystem.real fs hz := by
  rw [real_feedback, real_feedback, abs_neg]

/-- Settles O32. -/
theorem realCoefficientsOfAFrequency : Obligations.RealCoefficientsOfAFrequency := by
  intro fs hz o hfs
  refine ⟨rfl, real_feedback fs hz, ?_, real_feedback_pos fs hz, real_feedback_le_one hfs hz, real_feedback_eq_one_iff hfs hz,
    real_feedback_neg fs hz, ?_, ?_⟩
  · simp
  · simp [real_feedback_neg]
  · simp [neg_div]

/-! ### The wraps (R209) -/

/-- The new phase over the reals, the two tests together: after the first wrap has fired the second does not. -/
noncomputable def wrap (p : ℝ) : ℝ := wrapUp NumSystem.real (wrapDown NumSystem.real p)

theorem real_wrapDown_of_lt {p : ℝ} (h : 2 * Real.pi < p) : wrapDown NumSystem.real p = p - 2 * Real.pi :=
  if_pos (real_lt .. |>.2 h)

theorem real_wrapDown_of_le {p : ℝ} (h : p ≤ 2 * Real.pi) : wrapDown NumSystem.real p = p :=
  if_neg (by simpa using h)

theorem real_wrapUp_of_lt {p : ℝ} (h : p < -(2 * Real.pi)) : wrapUp NumSystem.real p = p + 2 * Real.pi :=
  if_pos (real_lt .. |>.2 h)

theorem real_wrapUp_of_le {p : ℝ} (h : -(2 * Real.pi) ≤ p) : wrapUp NumSystem.real p = p :=
  if_neg (by simpa [negTwoPi] using h)

theorem wrap_of_above {p : ℝ} (h : 2 * Real.pi < p) : wrap p = p - 2 * Real.pi := by
  have := Real.pi_pos
  rw [wrap, real_wrapDown_of_lt h, real_wrapUp_of_le (by linarith)]

theorem wrap_of_below {p : ℝ} (h : p < -(2 * Real.pi)) : wrap p = p + 2 * Real.pi := by
  have := Real.pi_pos
  rw [wrap, real_wrapDown_of_le (by linarith), real_wrapUp_of_lt h]

theorem wrap_of_abs_le {p : ℝ} (h : |p| ≤ 2 * Real.pi) : wrap p = p := by
  obtain ⟨hlow, hhigh⟩ := abs_le.1 h
  rw [wrap, real_wrapDown_of_le hhigh, real_wrapUp_of_le hlow]

/-- All the wraps can do: nothing within a turn, one turn back above it, one turn on below it. -/
theorem wrap_cases (p : ℝ) :
    (|p| ≤ 2 * Real.pi ∧ wrap p = p) ∨ (2 * Real.pi < p ∧ wrap p = p - 2 * Real.pi) ∨
      (p < -(2 * Real.pi) ∧ wrap p = p + 2 * Real.pi) := by
  rcases lt_or_ge (2 * Real.pi) p with habove | hhigh
  · exact .inr (.inl ⟨habove, wrap_of_above habove⟩)
  · rcases lt_or_ge p (-(2 * Real.pi)) with hbelow | hlow
    · exact .inr (.inr ⟨hbelow, wrap_of_below hbelow⟩)
    · exact .inl ⟨abs_le.2 ⟨hlow, hhigh⟩, wrap_of_abs_le (abs_le.2 ⟨hlow, hhigh⟩)⟩

/-- The phase after a sample, in every mode (R209). -/
theorem real_nextSample_phase (o : Osc ℝ) : (o.nextSample NumSystem.real).1.phase = wrap (o.phase + o.phaseInc) :=
  nextSample_phase NumSystem.real o

/-- One wrap is enough for a sum of two values of at most a turn. -/
theorem abs_wrap_le {p : ℝ} (h : |p| ≤ 4 * Real.pi) : |wrap p| ≤ 2 * Real.pi := by
  obtain ⟨hlow, hhigh⟩ := abs_le.1 h
  rcases wrap_cases p with ⟨hp, hw⟩ | ⟨hp, hw⟩ | ⟨hp, hw⟩ <;> rw [hw]
  · exact hp
  · exact abs_le.2 ⟨by linarith, by linarith⟩
  · exact abs_le.2 ⟨by linarith, by linarith⟩

/-! ### The invariant (10_state.md R41) -/

theorem realOscInv_reset : RealOscInv (Osc.reset NumSystem.real) := by
  constructor <;> simp [Osc.reset, Real.pi_nonneg]

theorem nextSample_keeps_realOscInv {o : Osc ℝ} (h : RealOscInv o) : RealOscInv (o.nextSample NumSystem.real).1 := by
  refine ⟨by simpa using h.coefficients, by simpa using h.positive, by simpa using h.atMostOne, by simpa using h.increment, ?_⟩
  rw [real_nextSample_phase]
  refine abs_wrap_le ((abs_add_le _ _).trans ?_)
  linarith [h.phase, h.increment]

theorem setFrequency_keeps_realOscInv {o : Osc ℝ} {fs hz : ℝ} (hfs : 0 < fs) (hhz : |hz| ≤ fs) (h : RealOscInv o) :
    RealOscInv (o.setFrequency NumSystem.real fs hz) := by
  refine ⟨by simp, real_feedback_pos fs hz, real_feedback_le_one hfs hz, ?_, h.phase⟩
  have hturn : (0 : ℝ) ≤ 2 * Real.pi := by positivity
  show |hz * (2 * Real.pi) / fs| ≤ 2 * Real.pi
  rw [abs_div, abs_mul, abs_of_nonneg hturn, abs_of_pos hfs, div_le_iff₀ hfs, mul_comm]
  gcongr

/-- Settles O33. -/
theorem realOscillatorInvariantKept : Obligations.RealOscillatorInvariantKept :=
  ⟨realOscInv_reset, fun _ => nextSample_keeps_realOscInv,
    fun _ _ h => ⟨h.coefficients, h.positive, h.atMostOne, h.increment, h.phase⟩,
    fun _ _ _ => setFrequency_keeps_realOscInv⟩

end Sys2Proof.Proofs
end

section
/-! The samples over the real numbers: what each waveform's shape comes to (42_oscillator.md R214 to R220). -/

namespace Sys2Proof.Proofs

open Sys2Proof.Machine Sys2Proof.Safety Sys2Proof.Laws

/-! ### The formulas in Mathlib's words -/

theorem real_turn (o : Osc ℝ) : o.turn NumSystem.real = |o.phase| / (2 * Real.pi) := rfl

theorem real_turnInc (o : Osc ℝ) : o.turnInc NumSystem.real = |o.phaseInc| / (2 * Real.pi) := rfl

/-- The ramp on the signed phase, less the correction (R204). -/
theorem real_sawOut (o : Osc ℝ) : o.sawOut NumSystem.real =
    2 * o.phase / (2 * Real.pi) - 1 - blep NumSystem.real (|o.phase| / (2 * Real.pi)) (|o.phaseInc| / (2 * Real.pi)) := by
  simp [Osc.sawOut, real_turn, real_turnInc]

theorem real_naiveSquare_of_lt {o : Osc ℝ} (h : o.phase < Real.pi) : o.naiveSquare NumSystem.real = 1 := by
  simp [Osc.naiveSquare, h]

theorem real_naiveSquare_of_le {o : Osc ℝ} (h : Real.pi ≤ o.phase) : o.naiveSquare NumSystem.real = -1 := by
  simp [Osc.naiveSquare, h]

/-- The naive square with both edges corrected, the falling one half a turn on (R206). -/
theorem real_squareOut (o : Osc ℝ) : o.squareOut NumSystem.real = o.naiveSquare NumSystem.real
    + blep NumSystem.real (|o.phase| / (2 * Real.pi)) (|o.phaseInc| / (2 * Real.pi))
    - blep NumSystem.real (Int.fract (|o.phase| / (2 * Real.pi) + 1 / 2)) (|o.phaseInc| / (2 * Real.pi)) := rfl

/-- A phase of at most a turn is a fraction of a turn. -/
theorem turn_mem_unit {p : ℝ} (h : |p| ≤ 2 * Real.pi) : 0 ≤ |p| / (2 * Real.pi) ∧ |p| / (2 * Real.pi) ≤ 1 :=
  ⟨by positivity, (div_le_one (by positivity)).2 h⟩

/-- Settles O37: a negative phase is below π, and the ramp is the signed phase in half turns less 1. -/
theorem realNegativePhaseShapes : Obligations.RealNegativePhaseShapes := by
  intro o hlow hneg
  have hpi := Real.pi_pos
  have hramp0 : -2 ≤ 2 * o.phase / (2 * Real.pi) := (le_div_iff₀ (by positivity)).2 (by linarith)
  have hramp1 : 2 * o.phase / (2 * Real.pi) < 0 := div_neg_of_neg_of_pos (by linarith) (by positivity)
  refine ⟨?_, ?_, ?_⟩
  · rw [real_squareOut, real_naiveSquare_of_lt (hneg.trans hpi)]
  · rw [real_sawOut]; linarith
  · rw [real_sawOut]; linarith

/-! ### Frequency 0 (R214) -/

/-- At increment 0 neither edge of the square is corrected. -/
theorem real_squareOut_of_zero {o : Osc ℝ} (hinc : o.phaseInc = 0) (hphase : |o.phase| ≤ 2 * Real.pi) :
    o.squareOut NumSystem.real = o.naiveSquare NumSystem.real := by
  obtain ⟨hlow, hhigh⟩ := turn_mem_unit hphase
  rw [real_squareOut, hinc, abs_zero, zero_div, real_blep_zero hlow hhigh,
    real_blep_zero (Int.fract_nonneg _) (Int.fract_lt_one _).le, add_zero, sub_zero]

theorem real_advancePhase_of_zero {o : Osc ℝ} (hinc : o.phaseInc = 0) (hphase : |o.phase| ≤ 2 * Real.pi) :
    o.advancePhase NumSystem.real = o := by
  have hstays : wrap (o.phase + o.phaseInc) = o.phase := by rw [hinc, add_zero, wrap_of_abs_le hphase]
  show { o with phase := wrap (o.phase + o.phaseInc) } = o
  rw [hstays]

/-- With `A0 = 0` and `B1 = 1` both stages hold their values. -/
theorem real_filter_of_held {o : Osc ℝ} (ha0 : o.a0 = 0) (hb1 : o.b1 = 1) : o.filter NumSystem.real = o := by
  cases o
  simp_all [Osc.filter]

/-- Settles O38: nothing moves, mode by mode. -/
theorem realZeroFrequencyIsConstant : Obligations.RealZeroFrequencyIsConstant := by
  intro o hinc hphase ha0 hb1
  have hstays := real_advancePhase_of_zero hinc hphase
  cases hmode : o.mode with
  | sine =>
    rw [nextSample_of_sine _ hmode]
    exact ⟨hstays, rfl⟩
  | sawtooth =>
    obtain ⟨hlow, hhigh⟩ := turn_mem_unit hphase
    rw [nextSample_of_sawtooth _ hmode]
    refine ⟨hstays, ?_⟩
    rw [real_sawOut, hinc, abs_zero, zero_div, real_blep_zero hlow hhigh, sub_zero]
  | square =>
    rw [nextSample_of_square _ hmode]
    refine ⟨hstays, ?_⟩
    rw [real_squareOut_of_zero hinc hphase]
    rcases lt_or_ge o.phase Real.pi with h | h
    · rw [real_naiveSquare_of_lt h, if_pos h]
    · rw [real_naiveSquare_of_le h, if_neg (not_lt.2 h)]
  | triangle =>
    rw [nextSample_of_triangle _ hmode, real_filter_of_held ha0 hb1]
    exact ⟨hstays, rfl⟩

/-! ### Sine (R201) -/

/-- The wraps change the phase by whole turns. -/
theorem wrap_eq_add_turns (p : ℝ) : ∃ z : ℤ, wrap p = p + z * (2 * Real.pi) := by
  rcases wrap_cases p with ⟨_, hw⟩ | ⟨_, hw⟩ | ⟨_, hw⟩
  · exact ⟨0, by simp [hw]⟩
  · exact ⟨-1, by rw [hw]; push_cast; ring⟩
  · exact ⟨1, by rw [hw]; push_cast; ring⟩

/-- After `k` samples mode and increment are the first ones, and the phase is `k` increments on, up to whole turns. -/
theorem iterate_nextSample_phase (o : Osc ℝ) (k : Nat) :
    let c := (fun c : Osc ℝ => (c.nextSample NumSystem.real).1)^[k] o
    c.mode = o.mode ∧ c.phaseInc = o.phaseInc ∧ ∃ z : ℤ, c.phase = o.phase + k * o.phaseInc + z * (2 * Real.pi) := by
  induction k with
  | zero => exact ⟨rfl, rfl, 0, by simp⟩
  | succ k ih =>
    obtain ⟨hmode, hinc, z, hphase⟩ := ih
    rw [Function.iterate_succ_apply']
    refine ⟨(nextSample_mode ..).trans hmode, (nextSample_phaseInc ..).trans hinc, ?_⟩
    obtain ⟨z', hwrap⟩ := wrap_eq_add_turns (o.phase + k * o.phaseInc + z * (2 * Real.pi) + o.phaseInc)
    refine ⟨z + z', ?_⟩
    rw [real_nextSample_phase, hphase, hinc, hwrap]
    push_cast
    ring

/-- Settles O34: the sine does not see whole turns. -/
theorem realSineFidelity : Obligations.RealSineFidelity := by
  intro o k hmode hstart
  obtain ⟨hmode', _, z, hphase⟩ := iterate_nextSample_phase o k
  rw [nextSample_of_sine _ (hmode'.trans hmode)]
  show Real.sin _ = _
  rw [hphase, hstart, zero_add, Real.sin_add_int_mul_two_pi]

/-! ### The Sawtooth's jump at the wrap (R218) -/

/-- The two samples at the wrap, `x` of an increment after it: the ramp falls by `2 - 2 dt`, and the two corrections give back
`x² + (1 - x)²`, at least one half. -/
theorem abs_sawtooth_jump_le {x dt : ℝ} (hx0 : 0 ≤ x) (hx1 : x ≤ 1) (hdt : dt ≤ 1 / 2) :
    |(2 * (x * dt) - 1 + (1 - x) ^ 2) - (2 * (1 - dt + x * dt) - 1 - x ^ 2)| ≤ 2 - 2 * dt - 1 / 2 := by
  rw [abs_le]
  constructor <;> nlinarith [sq_nonneg (x - 1 / 2)]

/-- The correction just after the wrap, `x` of an increment on. -/
theorem real_blep_start {x dt : ℝ} (hdt0 : 0 < dt) (hdt1 : dt ≤ 1 / 2) (hx : x ≤ 1) :
    blep NumSystem.real (x * dt) dt = -(1 - x) ^ 2 := by
  rcases lt_or_eq_of_le hx with hlt | rfl
  · rw [real_blep_before (by nlinarith), mul_div_cancel_right₀ x hdt0.ne']
  · rw [real_blep_between (by linarith) (by linarith)]
    norm_num

/-- The correction just before the wrap, `x` of an increment after the window opens. -/
theorem real_blep_end {x dt : ℝ} (hdt0 : 0 < dt) (hdt1 : dt ≤ 1 / 2) (hx : 0 < x) :
    blep NumSystem.real (1 - dt + x * dt) dt = x ^ 2 := by
  have hstep : 0 < x * dt := mul_pos hx hdt0
  have hquotient : 1 + (1 - dt + x * dt - 1) / dt = x := by field_simp; ring
  rw [real_blep_after (by linarith) (by linarith), hquotient]

/-- The Sawtooth on a phase and an increment that are not negative, both in turns. -/
theorem real_sawOut_of_nonneg {o : Osc ℝ} (hphase : 0 ≤ o.phase) (hinc : 0 ≤ o.phaseInc) :
    o.sawOut NumSystem.real =
      2 * (o.phase / (2 * Real.pi)) - 1 - blep NumSystem.real (o.phase / (2 * Real.pi)) (o.phaseInc / (2 * Real.pi)) := by
  rw [real_sawOut, abs_of_nonneg hphase, abs_of_nonneg hinc, mul_div_assoc]

/-- An increment of at most π is at most half a turn. -/
theorem turnInc_le_half {i : ℝ} (h : i ≤ Real.pi) : i / (2 * Real.pi) ≤ 1 / 2 :=
  (div_le_iff₀ (by positivity)).2 (by linarith)

/-- The sample before the wrap, `x` of an increment after its window opens. -/
theorem real_sawOut_before_wrap {o : Osc ℝ} {x : ℝ} (hinc0 : 0 < o.phaseInc) (hinc1 : o.phaseInc ≤ Real.pi) (hx : 0 < x)
    (hphase : o.phase = 2 * Real.pi - o.phaseInc + x * o.phaseInc) :
    o.sawOut NumSystem.real =
      2 * (1 - o.phaseInc / (2 * Real.pi) + x * (o.phaseInc / (2 * Real.pi))) - 1 - x ^ 2 := by
  have hstep : 0 < x * o.phaseInc := mul_pos hx hinc0
  have hturn : o.phase / (2 * Real.pi) = 1 - o.phaseInc / (2 * Real.pi) + x * (o.phaseInc / (2 * Real.pi)) := by
    rw [hphase]
    field_simp
  rw [real_sawOut_of_nonneg (by linarith) hinc0.le, hturn, real_blep_end (by positivity) (turnInc_le_half hinc1) hx]

/-- The sample after the wrap, `x` of an increment on. -/
theorem real_sawOut_after_wrap {o : Osc ℝ} {x : ℝ} (hinc0 : 0 < o.phaseInc) (hinc1 : o.phaseInc ≤ Real.pi) (hx0 : 0 < x)
    (hx1 : x ≤ 1) (hphase : o.phase = x * o.phaseInc) :
    o.sawOut NumSystem.real = 2 * (x * (o.phaseInc / (2 * Real.pi))) - 1 + (1 - x) ^ 2 := by
  have hturn : o.phase / (2 * Real.pi) = x * (o.phaseInc / (2 * Real.pi)) := by rw [hphase, mul_div_assoc]
  rw [real_sawOut_of_nonneg (hphase ▸ (mul_pos hx0 hinc0).le) hinc0.le, hturn,
    real_blep_start (by positivity) (turnInc_le_half hinc1) hx1, sub_neg_eq_add]

/-- Settles O35: before the wrap and after it the phase is the same part of an increment into its window. -/
theorem realSawtoothJumpBounded : Obligations.RealSawtoothJumpBounded := by
  intro o hmode hinc0 hinc1 hphase0 hphase1
  obtain ⟨x, hx⟩ : ∃ x, x * o.phaseInc = o.phase + o.phaseInc - 2 * Real.pi := ⟨_, div_mul_cancel₀ _ hinc0.ne'⟩
  have hx0 : 0 < x := by by_contra h; nlinarith
  have hx1 : x ≤ 1 := by by_contra h; nlinarith
  have hnext : (o.nextSample NumSystem.real).1.phase = x * o.phaseInc := by
    rw [real_nextSample_phase, wrap_of_above (by linarith), hx]
  have hmode' : (o.advancePhase NumSystem.real).mode = .sawtooth := hmode
  rw [nextSample_of_sawtooth _ hmode] at hnext ⊢
  dsimp only at hnext ⊢
  rw [nextSample_of_sawtooth _ hmode']
  show |(o.advancePhase NumSystem.real).sawOut NumSystem.real - o.sawOut NumSystem.real| ≤ _
  rw [real_sawOut_before_wrap hinc0 hinc1 hx0 (by linarith),
    real_sawOut_after_wrap (o := o.advancePhase NumSystem.real) hinc0 hinc1 hx0 hx1 hnext]
  exact abs_sawtooth_jump_le hx0.le hx1 (turnInc_le_half hinc1)

/-! ### Samples in `[-1, 1]` (R220) -/

/-- In the first half of a turn the correction pulls down by at most 1. -/
theorem real_blep_first_half {t dt : ℝ} (hdt1 : dt ≤ 1 / 4) (ht0 : 0 ≤ t) (ht1 : t ≤ 1 / 2) :
    -1 ≤ blep NumSystem.real t dt ∧ blep NumSystem.real t dt ≤ 0 := by
  rcases lt_or_ge t dt with h | h
  · exact real_blep_before_bounds (ht0.trans_lt h) ht0 h
  · rw [real_blep_between h (by linarith)]
    norm_num

/-- In the second half of a turn the correction pushes up by at most 1. -/
theorem real_blep_second_half {t dt : ℝ} (hdt1 : dt ≤ 1 / 4) (ht0 : 1 / 2 ≤ t) (ht1 : t ≤ 1) :
    0 ≤ blep NumSystem.real t dt ∧ blep NumSystem.real t dt ≤ 1 := by
  rcases lt_or_ge (1 - dt) t with h | h
  · exact real_blep_after_bounds (by linarith) ht1 (by linarith) h
  · rw [real_blep_between (by linarith) h]
    norm_num

section UnitRange

variable {o : Osc ℝ}

/-- The phase of the range in turns. -/
theorem unitRange_turn (h : UnitRange o) : 0 ≤ o.phase / (2 * Real.pi) ∧ o.phase / (2 * Real.pi) ≤ 1 :=
  ⟨div_nonneg h.phaseLow (by positivity), (div_le_one (by positivity)).2 h.phaseHigh⟩

/-- The increment of the range in turns. -/
theorem unitRange_turnInc_le (h : UnitRange o) : o.phaseInc / (2 * Real.pi) ≤ 1 / 4 :=
  (div_le_iff₀ (by positivity)).2 (by linarith [h.incHigh])

/-- In each half of the turn ramp and correction have the same sign, and each is at most 1 in size. -/
theorem abs_real_sawOut_le_one (h : UnitRange o) : |o.sawOut NumSystem.real| ≤ 1 := by
  obtain ⟨ht0, ht1⟩ := unitRange_turn h
  have hdt1 := unitRange_turnInc_le h
  rw [real_sawOut_of_nonneg h.phaseLow h.incLow, abs_le]
  rcases le_total (o.phase / (2 * Real.pi)) (1 / 2) with hhalf | hhalf
  · obtain ⟨hlow, hhigh⟩ := real_blep_first_half hdt1 ht0 hhalf
    constructor <;> linarith
  · obtain ⟨hlow, hhigh⟩ := real_blep_second_half hdt1 hhalf ht1
    constructor <;> linarith

/-- In each half of the turn the two corrections pull the naive square towards 0, each by at most 1. -/
theorem abs_real_squareOut_le_one (h : UnitRange o) : |o.squareOut NumSystem.real| ≤ 1 := by
  have hpi := Real.pi_pos
  obtain ⟨ht0, ht1⟩ := unitRange_turn h
  have hdt1 := unitRange_turnInc_le h
  rw [real_squareOut, abs_of_nonneg h.phaseLow, abs_of_nonneg h.incLow, abs_le]
  rcases lt_or_ge o.phase Real.pi with hhalf | hhalf
  · have hturn : o.phase / (2 * Real.pi) < 1 / 2 := (div_lt_iff₀ (by positivity)).2 (by linarith)
    have hfract : Int.fract (o.phase / (2 * Real.pi) + 1 / 2) = o.phase / (2 * Real.pi) + 1 / 2 :=
      Int.fract_eq_self.2 ⟨by linarith, by linarith⟩
    obtain ⟨hlow, hhigh⟩ := real_blep_first_half hdt1 ht0 hturn.le
    obtain ⟨hlow', hhigh'⟩ := real_blep_second_half (t := o.phase / (2 * Real.pi) + 1 / 2) hdt1 (by linarith) (by linarith)
    rw [hfract, real_naiveSquare_of_lt hhalf]
    constructor <;> linarith
  · have hturn : 1 / 2 ≤ o.phase / (2 * Real.pi) := (le_div_iff₀ (by positivity)).2 (by linarith)
    have hfract : Int.fract (o.phase / (2 * Real.pi) + 1 / 2) = o.phase / (2 * Real.pi) - 1 / 2 :=
      Int.fract_eq_iff.2 ⟨by linarith, by linarith, 1, by push_cast; ring⟩
    obtain ⟨hlow, hhigh⟩ := real_blep_second_half hdt1 hturn ht1
    obtain ⟨hlow', hhigh'⟩ := real_blep_first_half (t := o.phase / (2 * Real.pi) - 1 / 2) hdt1 (by linarith) (by linarith)
    rw [hfract, real_naiveSquare_of_le hhalf]
    constructor <;> linarith

/-- A one-pole stage averages, so it stays in the range of its input and its state. -/
theorem abs_average_le_one {a b x y : ℝ} (ha : a = 1 - b) (hb0 : 0 ≤ b) (hb1 : b ≤ 1) (hx : |x| ≤ 1) (hy : |y| ≤ 1) :
    |a * x + b * y| ≤ 1 := by
  obtain ⟨hx0, hx1⟩ := abs_le.1 hx
  obtain ⟨hy0, hy1⟩ := abs_le.1 hy
  subst ha
  rw [abs_le]
  constructor <;> nlinarith

/-- Both stages stay in the range. -/
theorem filter_keeps_unitRange (h : UnitRange o) : UnitRange (o.filter NumSystem.real) := by
  have hA : |(o.filter NumSystem.real).stageA| ≤ 1 :=
    abs_average_le_one h.coefficients h.nonneg h.atMostOne (abs_real_squareOut_le_one h) h.stageA
  exact ⟨h.coefficients, h.nonneg, h.atMostOne, h.phaseLow, h.phaseHigh, h.incLow, h.incHigh, hA,
    abs_average_le_one h.coefficients h.nonneg h.atMostOne hA h.stageB⟩

/-- The phase stays in the first turn: a step past its end comes back by one turn. -/
theorem advancePhase_keeps_unitRange (h : UnitRange o) : UnitRange (o.advancePhase NumSystem.real) := by
  obtain ⟨hcoefficients, hnonneg, hatMostOne, hphase0, hphase1, hinc0, hinc1, hA, hB⟩ := h
  have hpi := Real.pi_pos
  have hwrap : 0 ≤ wrap (o.phase + o.phaseInc) ∧ wrap (o.phase + o.phaseInc) ≤ 2 * Real.pi := by
    rcases wrap_cases (o.phase + o.phaseInc) with ⟨hp, hw⟩ | ⟨hp, hw⟩ | ⟨hp, hw⟩ <;> rw [hw]
    · exact ⟨by linarith, (abs_le.1 hp).2⟩
    · exact ⟨by linarith, by linarith⟩
    · exact ⟨by linarith, by linarith⟩
  exact ⟨hcoefficients, hnonneg, hatMostOne, hwrap.1, hwrap.2, hinc0, hinc1, hA, hB⟩

end UnitRange

/-- Settles O36: mode by mode, the sample is in the range, and neither the phase nor the stages leave theirs. -/
theorem realSamplesStayInUnitRange : Obligations.RealSamplesStayInUnitRange := by
  intro o h
  cases hmode : o.mode with
  | sine =>
    rw [nextSample_of_sine _ hmode]
    exact ⟨advancePhase_keeps_unitRange h, Real.abs_sin_le_one o.phase⟩
  | sawtooth =>
    rw [nextSample_of_sawtooth _ hmode]
    exact ⟨advancePhase_keeps_unitRange h, abs_real_sawOut_le_one h⟩
  | square =>
    rw [nextSample_of_square _ hmode]
    exact ⟨advancePhase_keeps_unitRange h, abs_real_squareOut_le_one h⟩
  | triangle =>
    rw [nextSample_of_triangle _ hmode]
    exact ⟨advancePhase_keeps_unitRange (filter_keeps_unitRange h), (filter_keeps_unitRange h).stageB⟩

end Sys2Proof.Proofs
end
